-- ==== Sys2Proof/Word.lean ====
section
/-! DEFINITION. The machine's words: bytes, command words, register indices, levels and samples. -/

namespace Sys2Proof

/-- A byte is 8 bits (R6); a register of the register file holds one (R11). -/
abbrev Byte := BitVec 8

/-- A command word is 16 bits (R44). -/
abbrev Word := BitVec 16

/-- A register index as the latch holds it: 4 bits, 0 to 15 (R14). -/
abbrev RegIndex := BitVec 4

/-- An amplitude or an envelope volume: 4 bits (R5 `VOL_W`). -/
abbrev Level := BitVec 4

/-- SAMPLE: a signed 16-bit two's complement integer (R5, R32, R88). Its value is `BitVec.toInt`. -/
abbrev Sample := BitVec 16

end Sys2Proof
end

