-- ==== Sys2Proof/Syntax.lean ====
section
/-! DEFINITION. The host commands, the chip-state record that travels beside LOAD, and a command as the host
presents it. -/

namespace Sys2Proof

/-- The three tone channels; index 0 is A, 1 is B, 2 is C (R10). -/
inductive Channel where
  | A
  | B
  | C
deriving DecidableEq, Repr

/-- The channel's index (R10). -/
def Channel.index : Channel → Nat
  | .A => 0
  | .B => 1
  | .C => 2

/-- One channel's fields of a record handed to LOAD. They are naturals, so that a field can lie outside its width and
R95's check (1) can fail (log 10). -/
structure RecordChannel where
  period        : Nat
  counter       : Nat
  sign          : Nat
  amplitude     : Nat
  toneDisabled  : Nat
  noiseDisabled : Nat
  envMode       : Nat
deriving DecidableEq, Repr

/-- A chip-state record as LOAD receives it and SAVE returns it: the fields of R10 exchanged as values, not as bytes
(R47, R94, R95; U12). -/
structure Record where
  regs         : Vector Nat 16
  latch        : Nat
  chA          : RecordChannel
  chB          : RecordChannel
  chC          : RecordChannel
  noisePeriod  : Nat
  noiseCounter : Nat
  noiseShift   : Nat
  envPeriod    : Nat
  envCounter   : Nat
  segment      : Nat
  step         : Nat
  volume       : Nat
deriving DecidableEq, Repr

/-- Channel `i`'s part of a record. -/
def Record.channel (r : Record) : Channel → RecordChannel
  | .A => r.chA
  | .B => r.chB
  | .C => r.chC

/-- A channel's part with every field 0. -/
def RecordChannel.zeros : RecordChannel :=
  { period := 0, counter := 0, sign := 0, amplitude := 0, toneDisabled := 0, noiseDisabled := 0, envMode := 0 }

/-- The record whose every field is 0: what stands beside a word that carries no record (log 5, log 9). -/
def Record.zeros : Record :=
  { regs := Vector.replicate 16 0, latch := 0,
    chA := .zeros, chB := .zeros, chC := .zeros,
    noisePeriod := 0, noiseCounter := 0, noiseShift := 0,
    envPeriod := 0, envCounter := 0, segment := 0, step := 0, volume := 0 }

/-- The ten host commands (R45), one constructor per row of spec/opcode_table.json. -/
inductive Instr where
  /-- SEL: latch register index `d` (R52). -/
  | sel (d : Byte)
  /-- RD: read the latched register (R53). -/
  | rd
  /-- WR: write `d` to the latched register (R54). -/
  | wr (d : Byte)
  /-- WIO: write `d` to the IO register (R62). -/
  | wio (d : Byte)
  /-- CYC: one chip cycle, one sample (R84). -/
  | cyc
  /-- INIT: reset the chip state (R91). -/
  | init
  /-- RCUR: rewind the write cursor (R93). -/
  | rcur
  /-- SETBUF: hand over a buffer of `capacity` samples (R92). -/
  | setbuf (capacity : Nat)
  /-- SAVE: copy out the chip state (R94). -/
  | save
  /-- LOAD: replace the chip state by `record` (R95). -/
  | load (record : Record)
deriving DecidableEq, Repr

/-- A command as the host presents it: one 16-bit word (R44), and beside it the operands that do not fit in a word
(R47). `capacity` is read for SETBUF only and `record` for LOAD only (log 5). -/
structure HostCommand where
  word     : Word
  capacity : Nat
  record   : Record
deriving DecidableEq, Repr

end Sys2Proof
end

