-- ==== Sys2Proof/WellFormed.lean ====
section
/-! DEFINITION. Which words spell a command: the three checks of R48. A term of `Instr` needs no check: each of its
operands has exactly the type the spec gives it, and every value of that type is encodable (R46, R47). -/

namespace Sys2Proof

/-- The operation code `w[15:12]` (R44). -/
def Word.op (w : Word) : BitVec 4 := w.extractLsb' 12 4

/-- The reserved field `w[11:8]` (R44). -/
def Word.z (w : Word) : BitVec 4 := w.extractLsb' 8 4

/-- The data operand `w[7:0]` (R44, R46). -/
def Word.d (w : Word) : Byte := w.extractLsb' 0 8

/-- R48 (1): the code is one of 0x1 to 0xA. -/
def Word.opAssigned (w : Word) : Bool := 1 ≤ (Word.op w).toNat && (Word.op w).toNat ≤ 10

/-- R48 (2): the `z` field is 0000. -/
def Word.zClear (w : Word) : Bool := Word.z w == 0

/-- The operations that take a `d` operand: SEL, WR and WIO (R46). -/
def Word.takesData (w : Word) : Bool := Word.op w == 1 || Word.op w == 3 || Word.op w == 4

/-- R48 (3): an operation without a `d` operand has 0x00 there. -/
def Word.dataAllowed (w : Word) : Bool := Word.takesData w || Word.d w == 0

/-- A word spells a command exactly when none of the three cases of R48 holds. -/
def Word.wf (w : Word) : Bool := Word.opAssigned w && Word.zClear w && Word.dataAllowed w

/-- A presented command is well formed when its word is: the operands beside it have no illegal value (R47). -/
def HostCommand.wf (c : HostCommand) : Bool := Word.wf c.word

end Sys2Proof
end

