-- ==== Sys2Proof/Decode.lean ====
section
/-! DEFINITION. Decoding a presented command (R44 to R49), and the encoder. Decoding is total: a word spells one of
the ten commands or is refused by the name of the case of R48 it falls under. -/

namespace Sys2Proof

/-- Why a word spells no command: the three cases of R48, the first that holds. -/
inductive DecodeError where
  /-- R48 (1): `op` is 0x0 or 0xB to 0xF. -/
  | reservedOp
  /-- R48 (2): `z` is not 0000. -/
  | reservedZ
  /-- R48 (3): the operation takes no `d` operand and `d` is not 0x00. -/
  | strayData
deriving DecidableEq, Repr

/-- An operation without a `d` operand: the word spells `i` only when `d` is 0x00 (R48). -/
def decodePlain (w : Word) (i : Instr) : Except DecodeError Instr :=
  if Word.d w = 0 then .ok i else .error .strayData

/-- The command of a word whose `z` field is clear, by operation code (R45). -/
def decodeOp (c : HostCommand) : Except DecodeError Instr :=
  match (Word.op c.word).toNat with
  | 1 => .ok (.sel (Word.d c.word))
  | 2 => decodePlain c.word .rd
  | 3 => .ok (.wr (Word.d c.word))
  | 4 => .ok (.wio (Word.d c.word))
  | 5 => decodePlain c.word .cyc
  | 6 => decodePlain c.word .init
  | 7 => decodePlain c.word .rcur
  | 8 => decodePlain c.word (.setbuf c.capacity)
  | 9 => decodePlain c.word .save
  | 10 => decodePlain c.word (.load c.record)
  | _ => .error .reservedOp

/-- Decode a presented command (R45, R46, R47, R48). -/
def decode (c : HostCommand) : Except DecodeError Instr :=
  if Word.opAssigned c.word then
    if Word.z c.word = 0 then decodeOp c else .error .reservedZ
  else .error .reservedOp

/-- The word `op z d` with `z` clear (R44). -/
def Word.assemble (op : BitVec 4) (d : Byte) : Word := op ++ (0#4 ++ d)

/-- The word of an instruction (R45). -/
def Instr.word : Instr → Word
  | .sel d => Word.assemble 1 d
  | .rd => Word.assemble 2 0
  | .wr d => Word.assemble 3 d
  | .wio d => Word.assemble 4 d
  | .cyc => Word.assemble 5 0
  | .init => Word.assemble 6 0
  | .rcur => Word.assemble 7 0
  | .setbuf _ => Word.assemble 8 0
  | .save => Word.assemble 9 0
  | .load _ => Word.assemble 10 0

/-- What travels beside the word as SETBUF's capacity (R47). -/
def Instr.capacity : Instr → Nat
  | .setbuf n => n
  | .sel _ => 0
  | .rd => 0
  | .wr _ => 0
  | .wio _ => 0
  | .cyc => 0
  | .init => 0
  | .rcur => 0
  | .save => 0
  | .load _ => 0

/-- What travels beside the word as LOAD's record (R47). -/
def Instr.record : Instr → Record
  | .load r => r
  | .sel _ => .zeros
  | .rd => .zeros
  | .wr _ => .zeros
  | .wio _ => .zeros
  | .cyc => .zeros
  | .init => .zeros
  | .rcur => .zeros
  | .setbuf _ => .zeros
  | .save => .zeros

/-- The command as the host presents it (R44, R45, R47). -/
def encode (i : Instr) : HostCommand :=
  { word := i.word, capacity := i.capacity, record := i.record }

/-- The mnemonic of an instruction (R45). -/
def Instr.mnemonic : Instr → String
  | .sel _ => "SEL"
  | .rd => "RD"
  | .wr _ => "WR"
  | .wio _ => "WIO"
  | .cyc => "CYC"
  | .init => "INIT"
  | .rcur => "RCUR"
  | .setbuf _ => "SETBUF"
  | .save => "SAVE"
  | .load _ => "LOAD"

/-- The presented command of an opcode-table word `w` of `nbits` bits: the one command word, and beside it operands of
zeros, since the table gives them no bits (log 9). -/
def HostCommand.ofTableWord (nbits w : Nat) : HostCommand :=
  { word := BitVec.ofNat 16 (w % 2 ^ nbits), capacity := 0, record := .zeros }

/-- The instruction the decoder reads from an opcode-table word. -/
def decodeTableWord (nbits w : Nat) : Option Instr :=
  match decode (HostCommand.ofTableWord nbits w) with
  | .ok i => some i
  | .error _ => none

end Sys2Proof
end

