-- ==== Sys2Proof/Machine/State.lean ====
section
/-! DEFINITION. The state of the machine: the chip record (R10), the items beside it (R23, R101), and the commands the
host has presented (log 5). Plain data. -/

namespace Sys2Proof.Machine

open Sys2Proof

/-- One tone channel: its generator state and its cached projections of registers 7 and 8+i (R15). -/
structure ToneChannel where
  period        : BitVec 12
  counter       : BitVec 12
  sign          : Bool
  amplitude     : Level
  toneDisabled  : Bool
  noiseDisabled : Bool
  envMode       : Bool
deriving DecidableEq, Repr

/-- The noise generator (R18). -/
structure NoiseGen where
  period  : BitVec 5
  counter : BitVec 6
  shift   : BitVec 17
deriving DecidableEq, Repr

/-- The envelope generator (R19); `segment` is one bit, true for segment 1. Its shape is register 13, not a field
(R20). -/
structure EnvGen where
  period  : BitVec 16
  counter : BitVec 17
  segment : Bool
  step    : BitVec 4
  volume  : Level
deriving DecidableEq, Repr

/-- The chip state `st`: "It holds exactly these fields" (R10). -/
structure Chip where
  regs  : Vector Byte 16
  latch : RegIndex
  chA   : ToneChannel
  chB   : ToneChannel
  chC   : ToneChannel
  noise : NoiseGen
  env   : EnvGen
deriving DecidableEq, Repr

/-- Channel `i` of the chip (R10). -/
def Chip.channel (c : Chip) : Channel → ToneChannel
  | .A => c.chA
  | .B => c.chB
  | .C => c.chC

/-- The fields of a chip record, in the order of R10's table: what F_BAD_SNAPSHOT names (R97; log 8). -/
inductive RecordField where
  | reg (r : RegIndex)
  | latch
  | tonePeriod (ch : Channel)
  | toneCounter (ch : Channel)
  | sign (ch : Channel)
  | amplitude (ch : Channel)
  | toneDisabled (ch : Channel)
  | noiseDisabled (ch : Channel)
  | envMode (ch : Channel)
  | noisePeriod
  | noiseCounter
  | noiseShift
  | envPeriod
  | envCounter
  | segment
  | step
  | volume
deriving DecidableEq, Repr

/-- The five fault codes, each with the value it records (R97). The meaning of a command raises one as a next state
that carries it (R98, `raise`); `step` then answers it from every later call: the run is stuck. Safe: the spec gives
a faulted run no later step. -/
inductive Fault where
  /-- F_BAD_INDEX: raised by SEL of an index above 15; records the operand (R52). Safe. -/
  | badIndex (d : Byte)
  /-- F_NO_BUFFER: raised by CYC when no SETBUF has run since the start of the launch (R84). Safe. -/
  | noBuffer
  /-- F_SINK_FULL: raised by CYC when the cursor has reached the capacity; records the cursor (R84, R121). Safe. -/
  | sinkFull (cursor : Nat)
  /-- F_BAD_SNAPSHOT: raised by LOAD of an ill-formed record; records the first field out of range (R95). Safe. -/
  | badSnapshot (field : RecordField)
  /-- F_UNINIT: raised by SEL, RD, WR, WIO, CYC and SAVE before the first INIT or LOAD; records the command (R111).
  Safe. -/
  | uninit (command : Instr)
deriving DecidableEq, Repr

/-- The fault's number (R97). -/
def Fault.code : Fault → Nat
  | .badIndex _ => 1
  | .noBuffer => 2
  | .sinkFull _ => 3
  | .badSnapshot _ => 4
  | .uninit _ => 5

/-- Why the model gives a presented command no step. -/
inductive Refusal where
  /-- An instruction without a meaning, rejected in `exec`; no instruction of this model is. Safe. -/
  | notModelled (mnemonic : String)
  /-- The decoder's verdict "invalid": the word spells no command (R48, R101). Raised by running a presented command.
  Safe. -/
  | invalidWord (w : Word) (why : DecodeError)
deriving DecidableEq, Repr

/-- A value returned to the host (R23 `outputs`): a register byte by RD, a count by CYC, a record by SAVE. -/
inductive Output where
  | byte (v : Byte)
  | count (n : Nat)
  | record (r : Record)
deriving DecidableEq, Repr

/-- The contents of the host's buffer (R23 `written`): (index, sample) pairs, index strictly rising. An index that is
not listed holds no value, since no sample was written there since the last SETBUF. -/
abbrev Memory := List (Nat × Sample)

/-- The whole state of the model. -/
structure State where
  /-- The chip record (R10); it holds no value the rules read while `initialized` is false (R111). -/
  chip        : Chip
  /-- Whether an INIT or a LOAD has run in this launch (R23). -/
  initialized : Bool
  /-- The fault mark: none, or the first fault with the value it recorded (R23, R98). -/
  fault       : Option Fault
  /-- The refusal mark (R101). -/
  refusal     : Option Refusal
  /-- `sink_cap`: none until a SETBUF (R23, R92). -/
  sinkCap     : Option Nat
  /-- `cursor`: the index the next sample is written at (R23, R89). -/
  cursor      : Nat
  /-- `written`: the samples in the current buffer (R23, R89). -/
  written     : Memory
  /-- `emitted`: every sample produced, in order (R23, R89). -/
  emitted     : List Sample
  /-- `outputs`: every value returned to the host, in order (R23). -/
  outputs     : List Output
  /-- The commands the host has presented and the chip has not executed, the next one first (R25; log 5). -/
  pending     : List HostCommand
deriving DecidableEq, Repr

/-- A tone channel after INIT (R26). -/
def ToneChannel.reset : ToneChannel :=
  { period := 0, counter := 0, sign := false, amplitude := 0, toneDisabled := false, noiseDisabled := false,
    envMode := false }

/-- The chip state after INIT: the table of R26. Every field is zero but register 14, all ones, and the LFSR, 1. -/
def Chip.reset : Chip :=
  { regs := #v[0, 0, 0, 0, 0, 0, 0, 0, 0, 0, 0, 0, 0, 0, 0xFF, 0], latch := 0,
    chA := .reset, chB := .reset, chC := .reset,
    noise := { period := 0, counter := 0, shift := 0x00001 },
    env := { period := 0, counter := 0, segment := false, step := 0, volume := 0 } }

/-- The start of a launch: not initialized, no sink, no marks, nothing produced (R23, R111). The chip state holds no
value there (R111), so it is an argument: whatever it is, no command reads it (log 4). The cursor is log 2. -/
def State.launch (chip : Chip) : State :=
  { chip := chip, initialized := false, fault := none, refusal := none, sinkCap := none, cursor := 0, written := [],
    emitted := [], outputs := [], pending := [] }

/-- The machine right after reset. "The only reset is the INIT command" (R110): this is the state that INIT leaves at
the start of a launch (R26, R91; log 1). -/
def State.reset : State :=
  { chip := .reset, initialized := true, fault := none, refusal := none, sinkCap := none, cursor := 0, written := [],
    emitted := [], outputs := [], pending := [] }

/-- What a command answers. -/
abbrev Result := Host.Outcome State Fault Refusal

end Sys2Proof.Machine
end

