-- ==== Sys2Proof/Machine/Tables.lean ====
section
/-! DEFINITION. The spec's tables and numeric literals, each a named constant so that it can be corrected in one place
(93_implementation_defined.md, Part 2; log 11, log 12). -/

namespace Sys2Proof.Machine

open Sys2Proof

/-- `REG_MASK` (R5, R12). Entries 0 to 5 and 11 to 13 follow from the source's ranges, the rest are decision D1
(log 11). -/
def regMaskTable : Vector Byte 16 :=
  #v[0xFF, 0x0F, 0xFF, 0x0F, 0xFF, 0x0F, 0x1F, 0xFF, 0x1F, 0x1F, 0x1F, 0xFF, 0xFF, 0x0F, 0xFF, 0xFF]

/-- `REG_MASK[r]`. -/
def regMask (r : RegIndex) : Byte := regMaskTable[r.toNat]'(r.isLt)

/-- `VOLUME_TABLE` (R87; log 12). -/
def volumeTable : Vector Nat 16 :=
  #v[0, 40, 60, 86, 124, 186, 264, 440, 518, 840, 1196, 1526, 2016, 2602, 3300, 4096]

/-- `VOLUME_TABLE[level]` (R87). -/
def volumeOf (level : Level) : Nat := volumeTable[level.toNat]'(level.isLt)

/-- The Hold bit of a shape (R12, R76). -/
def holdBit : Byte := 0x01

/-- The Alternate bit of a shape (R12, R76); "No rule tests the Alternate bit by name". -/
def alternateBit : Byte := 0x02

/-- The Attack bit of a shape (R76, R77). -/
def attackBit : Byte := 0x04

/-- The Continue bit of a shape (R12, R76). -/
def continueBit : Byte := 0x08

/-- The mask 0x09 of the alternation test `(shape & 0x09) = 0x08` (R79): Continue and Hold. -/
def alternationMask : Byte := 0x09

/-- The shapes whose segment 1 starts at volume 15 (R77). -/
def segmentOneHigh : List Byte := [8, 11, 13, 14]

/-- The shapes whose segment 1 increments (R79). -/
def segmentOneUp : List Byte := [10, 12]

/-- The shapes whose segment 1 decrements (R79). -/
def segmentOneDown : List Byte := [8, 14]

/-- The count CYC returns (R90). -/
def cycleCount : Nat := 1

end Sys2Proof.Machine
end

