-- ==== Sys2Proof/Machine/Operands.lean ====
section
/-! DEFINITION. The operand forms: a register named by the latch (RD, WR) or directly (WIO), the masked store, the
index operand of SEL, and the period operands that two registers make together. -/

namespace Sys2Proof.Machine

open Sys2Proof

/-- `reg[r]` (R8). -/
def Chip.reg (c : Chip) (r : RegIndex) : Byte := c.regs[r.toNat]'(r.isLt)

/-- `reg[r] <- d & REG_MASK[r]`: every register is write-masked (R13). -/
def Chip.store (c : Chip) (r : RegIndex) (d : Byte) : Chip :=
  { c with regs := c.regs.set r.toNat (d &&& regMask r) r.isLt }

/-- The register the latch names (R14): the operand of RD. -/
def Chip.latched (c : Chip) : Byte := c.reg c.latch

/-- `st.latch <- r` (R52). -/
def Chip.setLatch (c : Chip) (r : RegIndex) : Chip := { c with latch := r }

/-- The IO register, addressed by WIO without the latch (R62). -/
def ioRegister : RegIndex := 14

/-- The shape register (R20). -/
def shapeRegister : RegIndex := 13

/-- `shape = reg[13]`, read whole at the moment a rule runs (R20). -/
def Chip.shape (c : Chip) : Byte := c.reg shapeRegister

/-- SEL's index operand: the latch value of an index in 0 to 15, none above (R46, R52). -/
def indexOperand (d : Byte) : Option RegIndex :=
  if d.toNat > 15 then none else some (d.extractLsb' 0 4)

/-- Put a channel's new state in place. -/
def Chip.setChannel (c : Chip) (ch : Channel) (t : ToneChannel) : Chip :=
  match ch with
  | .A => { c with chA := t }
  | .B => { c with chB := t }
  | .C => { c with chC := t }

/-- Change each of the three channels, by its own name. -/
def Chip.mapChannels (f : Channel → ToneChannel → ToneChannel) (c : Chip) : Chip :=
  { c with chA := f .A c.chA, chB := f .B c.chB, chC := f .C c.chC }

/-- Register `2i`: the low byte of channel `i`'s period (R12). -/
def toneLowRegister : Channel → RegIndex
  | .A => 0
  | .B => 2
  | .C => 4

/-- Register `2i+1`: the high byte of channel `i`'s period (R12). -/
def toneHighRegister : Channel → RegIndex
  | .A => 1
  | .B => 3
  | .C => 5

/-- Register `8+i`: channel `i`'s level register (R12). -/
def levelRegister : Channel → RegIndex
  | .A => 8
  | .B => 9
  | .C => 10

/-- A tone period's two registers, low byte in the lower-numbered one; the high one supplies bits 11:8 only (R30;
log 13). -/
def tonePeriodBits (low high : Byte) : BitVec 12 := high.extractLsb' 0 4 ++ low

/-- The stored tone period: 0 is clamped to 1 (R55). -/
def tonePeriodOf (low high : Byte) : BitVec 12 :=
  if tonePeriodBits low high = 0 then 1 else tonePeriodBits low high

/-- The stored noise period: the low 5 bits, 0 clamped to 1 (R56). -/
def noisePeriodOf (v : Byte) : BitVec 5 :=
  if v.extractLsb' 0 5 = 0 then 1 else v.extractLsb' 0 5

/-- The stored envelope period: low and high byte, no clamp (R30, R59). -/
def envPeriodOf (low high : Byte) : BitVec 16 := high ++ low

/-- The amplitude of a level register: its low 4 bits (R58). -/
def amplitudeOf (v : Byte) : Level := v.extractLsb' 0 4

/-- What a write to a register recomputes (R12, R54). -/
inductive Derivation where
  | tone (ch : Channel)
  | noise
  | mixer
  | level (ch : Channel)
  | envPeriod
  | shape
  | nothing
deriving DecidableEq, Repr

/-- The derivation of each register: the `case` of R54. -/
def derivationOf (r : RegIndex) : Derivation :=
  match r.toNat with
  | 0 => .tone .A
  | 1 => .tone .A
  | 2 => .tone .B
  | 3 => .tone .B
  | 4 => .tone .C
  | 5 => .tone .C
  | 6 => .noise
  | 7 => .mixer
  | 8 => .level .A
  | 9 => .level .B
  | 10 => .level .C
  | 11 => .envPeriod
  | 12 => .envPeriod
  | 13 => .shape
  | _ => .nothing

end Sys2Proof.Machine
end

