-- ==== Sys2Proof/Machine/Flags.lean ====
section
/-! DEFINITION. The one-bit state (R17): how each flag is computed. The block has no condition codes. -/

namespace Sys2Proof.Machine

open Sys2Proof

/-- `tone_disabled[i]` from register 7: bit i, active-high disable (R57). -/
def toneDisableBit (mixer : Byte) (ch : Channel) : Bool := mixer.getLsbD ch.index

/-- `noise_disabled[i]` from register 7: bit 3+i, active-high disable (R57). -/
def noiseDisableBit (mixer : Byte) (ch : Channel) : Bool := mixer.getLsbD (3 + ch.index)

/-- `env_mode[i]` from a level register: bit 4 (R58). -/
def envModeBit (level : Byte) : Bool := level.getLsbD 4

/-- `sign[i]` on a rollover: `1 - sign[i]` (R64). -/
def flipSign (sign : Bool) : Bool := !sign

/-- The Attack bit of a shape is set (R77, R79). -/
def attackSet (shape : Byte) : Bool := shape &&& attackBit != 0

/-- The alternation test `(shape & 0x09) = 0x08` (R79). -/
def alternates (shape : Byte) : Bool := shape &&& alternationMask == continueBit

/-- `segment` after its 16th step: toggled when the shape alternates, else 1 (R79). -/
def nextSegment (shape : Byte) (segment : Bool) : Bool :=
  if alternates shape then !segment else true

/-- The noise output bit `noise_shift[0]` (R72). -/
def noiseBit (n : NoiseGen) : Bool := n.shift.getLsbD 0

/-- The channel gate: `(tone_disabled or sign) and (noise_disabled or noise_bit0)` (R85). -/
def gate (t : ToneChannel) (noise : Bool) : Bool :=
  (t.toneDisabled || t.sign) && (t.noiseDisabled || noise)

end Sys2Proof.Machine
end

