-- ==== Sys2Proof/Machine/Ops.lean ====
section
/-! DEFINITION. The shared operations: raising a fault, the precondition every command of the register bus starts with,
returning a value to the host, the sink, and the marks of a run. -/

namespace Sys2Proof.Machine

open Sys2Proof

/-- The fault mark: the code with the value recorded (R23, R98). -/
def State.markFault (s : State) (f : Fault) : State := { s with fault := some f }

/-- Fault entry, the one operation every command raises a fault by (R98): the state is unchanged but for the mark,
which holds the code and the value recorded. There is no return from it (R103); `step` gives the marked state no later
step (log 7). -/
def raise (f : Fault) (s : State) : Result := .next (s.markFault f)

/-- "if not initialized: raise Fault(F_UNINIT)" and otherwise go on (R52, R53, R54, R62, R84, R94, R111). The value
recorded is the command (R97; log 8). -/
def requireInit (i : Instr) (s : State) (goOn : Result) : Result :=
  if s.initialized then goOn else raise (.uninit i) s

/-- Replace the chip state. -/
def State.setChip (s : State) (c : Chip) : State := { s with chip := c }

/-- Replace the chip state and mark it as holding a value: INIT and LOAD (R91, R95). -/
def State.startChip (s : State) (c : Chip) : State := { s with chip := c, initialized := true }

/-- `Output(v)` (R8, R23). -/
def State.output (s : State) (v : Output) : State := { s with outputs := s.outputs ++ [v] }

/-- The sample at an index of the buffer, none where nothing was written since the last SETBUF (R23). -/
def Memory.read : Memory → Nat → Option Sample
  | [], _ => none
  | (j, w) :: m, i => if i = j then some w else Memory.read m i

/-- Write one sample, keeping the entries in order of their index (R89). -/
def Memory.write : Memory → Nat → Sample → Memory
  | [], i, v => [(i, v)]
  | (j, w) :: m, i, v =>
    if i < j then (i, v) :: (j, w) :: m
    else if i = j then (i, v) :: m
    else (j, w) :: Memory.write m i v

/-- Every listed index is above `low`, and they rise strictly. -/
def Memory.risesFrom : Option Nat → Memory → Bool
  | _, [] => true
  | none, (j, _) :: m => Memory.risesFrom (some j) m
  | some low, (j, _) :: m => decide (low < j) && Memory.risesFrom (some j) m

/-- The canonical form of the buffer's contents: indices strictly rising, so equal contents are equal lists. No entry
can equal what an unlisted index reads as, since that is no value. -/
def Memory.wf (m : Memory) : Bool := Memory.risesFrom none m

/-- `SinkAppend(s)` (R89). -/
def State.sinkAppend (s : State) (v : Sample) : State :=
  { s with written := Memory.write s.written s.cursor v, cursor := s.cursor + 1, emitted := s.emitted ++ [v] }

/-- A new buffer of `n` samples: nothing written into it yet, the cursor where it was (R92). -/
def State.newBuffer (s : State) (n : Nat) : State := { s with sinkCap := some n, written := [] }

/-- The cursor back at the start of the buffer (R93). -/
def State.rewind (s : State) : State := { s with cursor := 0 }

/-- The refusal mark, "kept for the whole run" (R101; log 16). -/
def State.markRefused (s : State) (r : Refusal) : State := { s with refusal := some r }

/-- Take the next presented command off the host's queue (R25; log 5). -/
def State.setPending (s : State) (q : List HostCommand) : State := { s with pending := q }

end Sys2Proof.Machine
end

