-- ==== Sys2Proof/Machine/Snapshot.lean ====
section
/-! DEFINITION. The chip-state record: which records LOAD admits (R95), and the two directions between a record and the
chip state (R47, R94, R95). -/

namespace Sys2Proof.Machine

open Sys2Proof

/-- A field's width in bits (R10). -/
def RecordField.width : RecordField → Nat
  | .reg _ => 8
  | .latch => 4
  | .tonePeriod _ => 12
  | .toneCounter _ => 12
  | .sign _ => 1
  | .amplitude _ => 4
  | .toneDisabled _ => 1
  | .noiseDisabled _ => 1
  | .envMode _ => 1
  | .noisePeriod => 5
  | .noiseCounter => 6
  | .noiseShift => 17
  | .envPeriod => 16
  | .envCounter => 17
  | .segment => 1
  | .step => 4
  | .volume => 4

/-- The value a record gives a field. -/
def fieldValue (r : Record) : RecordField → Nat
  | .reg i => r.regs[i.toNat]'(i.isLt)
  | .latch => r.latch
  | .tonePeriod ch => (r.channel ch).period
  | .toneCounter ch => (r.channel ch).counter
  | .sign ch => (r.channel ch).sign
  | .amplitude ch => (r.channel ch).amplitude
  | .toneDisabled ch => (r.channel ch).toneDisabled
  | .noiseDisabled ch => (r.channel ch).noiseDisabled
  | .envMode ch => (r.channel ch).envMode
  | .noisePeriod => r.noisePeriod
  | .noiseCounter => r.noiseCounter
  | .noiseShift => r.noiseShift
  | .envPeriod => r.envPeriod
  | .envCounter => r.envCounter
  | .segment => r.segment
  | .step => r.step
  | .volume => r.volume

/-- R95 (2): a register value keeps its mask, `reg[i] & ~REG_MASK[i] = 0`. -/
def maskKept (i : RegIndex) (v : Nat) : Bool := BitVec.ofNat 8 v &&& ~~~regMask i == 0

/-- The check of R95 on one field: (1) its width, (2) a register's mask, (3) `noise_shift` not 0. -/
def fieldAdmitted (r : Record) (f : RecordField) : Bool :=
  decide (fieldValue r f < 2 ^ f.width) &&
    match f with
    | .reg i => maskKept i (fieldValue r f)
    | .noiseShift => fieldValue r f != 0
    | _ => true

/-- A field of each of the three channels, in index order (R10). -/
def perChannel (f : Channel → RecordField) : List RecordField := [f .A, f .B, f .C]

/-- The fields of the sixteen registers, in index order (R10). -/
def registerFields : List RecordField := (List.range 16).map fun i => .reg (BitVec.ofNat 4 i)

/-- The fields of the three channels, row by row of R10's table. -/
def channelFields : List RecordField :=
  (List.map perChannel
    [.tonePeriod, .toneCounter, .sign, .amplitude, .toneDisabled, .noiseDisabled, .envMode]).flatten

/-- The fields of the two shared generators (R10). -/
def generatorFields : List RecordField :=
  [.noisePeriod, .noiseCounter, .noiseShift, .envPeriod, .envCounter, .segment, .step, .volume]

/-- The fields of the record in the order of R10's table (log 8). -/
def recordFields : List RecordField := registerFields ++ RecordField.latch :: channelFields ++ generatorFields

/-- The first field of a record that R95's checks do not admit (R97). -/
def firstBadField (r : Record) : Option RecordField := recordFields.find? (fun f => !fieldAdmitted r f)

/-- `WellFormed(s)` (R95). -/
def recordAdmitted (r : Record) : Bool := (firstBadField r).isNone

/-- A one-bit field: 1 is true, 0 is false (R7). -/
def bitOf (n : Nat) : Bool := n == 1

/-- A one-bit field as a record holds it (R7). -/
def natOfBit (b : Bool) : Nat := if b then 1 else 0

/-- A channel of a record, field by field, as given (R95). -/
def channelOfRecord (r : RecordChannel) : ToneChannel :=
  { period := BitVec.ofNat 12 r.period, counter := BitVec.ofNat 12 r.counter, sign := bitOf r.sign,
    amplitude := BitVec.ofNat 4 r.amplitude, toneDisabled := bitOf r.toneDisabled,
    noiseDisabled := bitOf r.noiseDisabled, envMode := bitOf r.envMode }

/-- The chip state a record holds: "every field, as given; nothing recomputed" (R95). -/
def chipOfRecord (r : Record) : Chip :=
  { regs := Vector.ofFn (fun i : Fin 16 => BitVec.ofNat 8 r.regs[i.val]), latch := BitVec.ofNat 4 r.latch,
    chA := channelOfRecord r.chA, chB := channelOfRecord r.chB, chC := channelOfRecord r.chC,
    noise :=
      { period := BitVec.ofNat 5 r.noisePeriod, counter := BitVec.ofNat 6 r.noiseCounter,
        shift := BitVec.ofNat 17 r.noiseShift },
    env :=
      { period := BitVec.ofNat 16 r.envPeriod, counter := BitVec.ofNat 17 r.envCounter, segment := bitOf r.segment,
        step := BitVec.ofNat 4 r.step, volume := BitVec.ofNat 4 r.volume } }

/-- A channel's part of the record SAVE copies out (R94). -/
def recordOfChannel (t : ToneChannel) : RecordChannel :=
  { period := t.period.toNat, counter := t.counter.toNat, sign := natOfBit t.sign, amplitude := t.amplitude.toNat,
    toneDisabled := natOfBit t.toneDisabled, noiseDisabled := natOfBit t.noiseDisabled, envMode := natOfBit t.envMode }

/-- The record SAVE copies out: every field of the chip state (R94). -/
def recordOfChip (c : Chip) : Record :=
  { regs := Vector.ofFn (fun i : Fin 16 => c.regs[i.val].toNat), latch := c.latch.toNat,
    chA := recordOfChannel c.chA, chB := recordOfChannel c.chB, chC := recordOfChannel c.chC,
    noisePeriod := c.noise.period.toNat, noiseCounter := c.noise.counter.toNat, noiseShift := c.noise.shift.toNat,
    envPeriod := c.env.period.toNat, envCounter := c.env.counter.toNat, segment := natOfBit c.env.segment,
    step := c.env.step.toNat, volume := c.env.volume.toNat }

end Sys2Proof.Machine
end

