-- ==== Sys2Proof/Machine/HostControl.lean ====
section
/-! DEFINITION. The host control commands INIT, SETBUF, RCUR, SAVE and LOAD (R91 to R96). -/

namespace Sys2Proof.Machine

open Sys2Proof

/-- INIT (R91): the reset table of R26; the sink, the outputs and the marks are left alone. -/
def execInit (s : State) : Result := .next (s.startChip .reset)

/-- SETBUF (R92). -/
def execSetbuf (n : Nat) (s : State) : Result := .next (s.newBuffer n)

/-- RCUR (R93). -/
def execRcur (s : State) : Result := .next s.rewind

/-- SAVE (R94). -/
def execSave (s : State) : Result :=
  requireInit .save s (.next (s.output (.record (recordOfChip s.chip))))

/-- LOAD (R95). -/
def execLoad (r : Record) (s : State) : Result :=
  match firstBadField r with
  | some f => raise (.badSnapshot f) s
  | none => .next (s.startChip (chipOfRecord r))

end Sys2Proof.Machine
end

