-- ==== Sys2Proof/Machine/Envelope.lean ====
section
/-! DEFINITION. The envelope generator: two segments of sixteen steps (R76 to R83). Each function is given the shape,
which is register 13 at the moment the rule runs (R20). -/

namespace Sys2Proof.Machine

open Sys2Proof

/-- The volume a segment starts with (R77). -/
def segmentStart (shape : Byte) (segment : Bool) : Level :=
  if segment then
    if shape ∈ segmentOneHigh then 15 else 0
  else
    if attackSet shape then 0 else 15

/-- `EnvReset` (R77): `segment` and `env_counter` are left alone. -/
def envReset (shape : Byte) (e : EnvGen) : EnvGen :=
  { e with step := 0, volume := segmentStart shape e.segment }

/-- The volume after one change, modulo 16, with no saturation (R79, R80). -/
def moveVolume (shape : Byte) (segment : Bool) (v : Level) : Level :=
  if segment then
    if shape ∈ segmentOneUp then v + 1
    else if shape ∈ segmentOneDown then v + 15
    else v
  else
    if attackSet shape then v + 1 else v + 15

/-- The volume part of an advance: "Do nothing to volume while `step == 0`" (R79). -/
def advanceVolume (shape : Byte) (e : EnvGen) : Level :=
  if e.step = 0 then e.volume else moveVolume shape e.segment e.volume

/-- `EnvAdvance` (R79): at the sixteenth step the next segment is chosen and starts from its reset volume. -/
def envAdvance (shape : Byte) (e : EnvGen) : EnvGen :=
  if e.step.toNat + 1 = 16 then
    envReset shape { e with volume := advanceVolume shape e, segment := nextSegment shape e.segment }
  else
    { e with volume := advanceVolume shape e, step := BitVec.ofNat 4 (e.step.toNat + 1) }

/-- `EnvStep` (R78): a threshold of twice the period; with period 0 the envelope advances on every cycle. -/
def envStep (shape : Byte) (e : EnvGen) : EnvGen :=
  if e.counter.toNat + 1 ≥ 2 * e.period.toNat then
    envAdvance shape { e with counter := 0 }
  else
    { e with counter := BitVec.ofNat 17 (e.counter.toNat + 1) }

/-- `DeriveEnvPeriod` (R59): nothing else of the envelope is touched. -/
def deriveEnvPeriod (c : Chip) : Chip :=
  { c with env := { c.env with period := envPeriodOf (c.reg 11) (c.reg 12) } }

/-- `RestartEnvelope` (R60): counter and segment 0, then `EnvReset`; on every write to register 13 (R117). -/
def restartEnvelope (c : Chip) : Chip :=
  { c with env := envReset c.shape { c.env with counter := 0, segment := false } }

end Sys2Proof.Machine
end

