-- ==== Sys2Proof/Machine/Noise.lean ====
section
/-! DEFINITION. The noise generator: a 17-bit LFSR (R70 to R75). -/

namespace Sys2Proof.Machine

open Sys2Proof

/-- `LfsrNext` (R71): shift right by one, bit 16 set to bit 0 XOR bit 3 of the value before the shift. -/
def lfsrNext (x : BitVec 17) : BitVec 17 :=
  (x >>> 1) ||| ((BitVec.ofBool (x.getLsbD 0 ^^ x.getLsbD 3)).zeroExtend 17 <<< 16)

/-- `NoiseStep` (R70): a threshold of twice the period; with period 0 the LFSR advances on every step (R74). -/
def noiseStep (n : NoiseGen) : NoiseGen :=
  if n.counter.toNat + 1 ≥ 2 * n.period.toNat then
    { n with counter := 0, shift := lfsrNext n.shift }
  else
    { n with counter := BitVec.ofNat 6 (n.counter.toNat + 1) }

/-- `DeriveNoise` (R56): the counter and the LFSR are left alone. -/
def deriveNoise (c : Chip) : Chip :=
  { c with noise := { c.noise with period := noisePeriodOf (c.reg 6) } }

end Sys2Proof.Machine
end

