-- ==== Sys2Proof/Machine/Tone.lean ====
section
/-! DEFINITION. The tone generator: the step of one channel (R64 to R69). -/

namespace Sys2Proof.Machine

open Sys2Proof

/-- `ToneStep` (R64): the counter is incremented without wrap-around and compared with the current period (R67). A
period of 0 rolls over on every step, as a period of 1 does (R66). -/
def toneStep (t : ToneChannel) : ToneChannel :=
  if t.counter.toNat + 1 ≥ t.period.toNat then
    { t with counter := 0, sign := flipSign t.sign }
  else
    { t with counter := BitVec.ofNat 12 (t.counter.toNat + 1) }

/-- `DeriveTone(i)` (R55): both stored registers of the pair; the counter and the phase are left alone. -/
def deriveTone (ch : Channel) (c : Chip) : Chip :=
  c.setChannel ch
    { c.channel ch with period := tonePeriodOf (c.reg (toneLowRegister ch)) (c.reg (toneHighRegister ch)) }

end Sys2Proof.Machine
end

