-- ==== Sys2Proof/Machine/Mixer.lean ====
section
/-! DEFINITION. Cycle execution, the mixer and the DAC interface: CYC (R84 to R90). -/

namespace Sys2Proof.Machine

open Sys2Proof

/-- The five generator steps of one cycle (R84). No step reads a field another step writes. -/
def Chip.advance (c : Chip) : Chip :=
  { c with
    chA := toneStep c.chA, chB := toneStep c.chB, chC := toneStep c.chC,
    noise := noiseStep c.noise,
    env := envStep c.shape c.env }

/-- `Level(i)` (R86). -/
def levelOf (t : ToneChannel) (volume : Level) : Level := if t.envMode then volume else t.amplitude

/-- What channel `i` adds to the sample: its table entry when its gate is true (R84, R85, R87). -/
def contribution (t : ToneChannel) (noise : Bool) (volume : Level) : Nat :=
  if gate t noise then volumeOf (levelOf t volume) else 0

/-- The sum over the three channels, read after all five steps (R84, R88). -/
def Chip.mix (c : Chip) : Nat :=
  contribution c.chA (noiseBit c.noise) c.env.volume
    + contribution c.chB (noiseBit c.noise) c.env.volume
    + contribution c.chC (noiseBit c.noise) c.env.volume

/-- The sum stored as a SAMPLE; every possible sum fits (R88). -/
def Chip.sample (c : Chip) : Sample := BitVec.ofNat 16 c.mix

/-- A cycle whose preconditions hold: advance, append one sample, return 1 (R84, R89, R90). -/
def State.cycle (s : State) : State :=
  ((s.setChip s.chip.advance).sinkAppend s.chip.advance.sample).output (.count cycleCount)

/-- CYC (R84): the preconditions are checked in this order before anything changes (R99, R100). -/
def execCyc (s : State) : Result :=
  requireInit .cyc s
    (match s.sinkCap with
    | none => raise .noBuffer s
    | some cap => if s.cursor ≥ cap then raise (.sinkFull s.cursor) s else .next s.cycle)

end Sys2Proof.Machine
end

