-- ==== Sys2Proof/Machine/RegisterBus.lean ====
section
/-! DEFINITION. The register bus commands SEL, RD, WR and WIO (R52 to R63). -/

namespace Sys2Proof.Machine

open Sys2Proof

/-- `DeriveMixer` (R57): the disable flags of the three channels, from register 7. -/
def deriveMixer (c : Chip) : Chip :=
  c.mapChannels fun ch t =>
    { t with toneDisabled := toneDisableBit (c.reg 7) ch, noiseDisabled := noiseDisableBit (c.reg 7) ch }

/-- `DeriveLevel(i)` (R58): amplitude and envelope mode, from register 8+i. -/
def deriveLevel (ch : Channel) (c : Chip) : Chip :=
  c.setChannel ch
    { c.channel ch with
      amplitude := amplitudeOf (c.reg (levelRegister ch)), envMode := envModeBit (c.reg (levelRegister ch)) }

/-- The register-specific derivation a write triggers (R54 to R61). -/
def derive (d : Derivation) (c : Chip) : Chip :=
  match d with
  | .tone ch => deriveTone ch c
  | .noise => deriveNoise c
  | .mixer => deriveMixer c
  | .level ch => deriveLevel ch c
  | .envPeriod => deriveEnvPeriod c
  | .shape => restartEnvelope c
  | .nothing => c

/-- The chip after a write of `d` to register `r`: the masked store, then the derivation (R54). -/
def Chip.writeReg (c : Chip) (r : RegIndex) (d : Byte) : Chip := derive (derivationOf r) (c.store r d)

/-- SEL (R52). -/
def execSel (d : Byte) (s : State) : Result :=
  requireInit (.sel d) s
    (match indexOperand d with
    | none => raise (.badIndex d) s
    | some r => .next (s.setChip (s.chip.setLatch r)))

/-- RD (R53). -/
def execRd (s : State) : Result :=
  requireInit .rd s (.next (s.output (.byte s.chip.latched)))

/-- WR (R54). -/
def execWr (d : Byte) (s : State) : Result :=
  requireInit (.wr d) s (.next (s.setChip (s.chip.writeReg s.chip.latch d)))

/-- WIO (R62): the masked store alone. -/
def execWio (d : Byte) (s : State) : Result :=
  requireInit (.wio d) s (.next (s.setChip (s.chip.store ioRegister d)))

end Sys2Proof.Machine
end

