-- ==== Sys2Proof/Machine/Dispatch.lean ====
section
/-! DEFINITION. One arm per host command: the call of its meaning. -/

namespace Sys2Proof.Machine

open Sys2Proof

def exec (i : Instr) (s : State) : Host.Outcome State Fault Refusal :=
  match i with
  | .sel d => Sys2Proof.Machine.execSel d s
  | .rd => Sys2Proof.Machine.execRd s
  | .wr d => Sys2Proof.Machine.execWr d s
  | .wio d => Sys2Proof.Machine.execWio d s
  | .cyc => Sys2Proof.Machine.execCyc s
  | .init => Sys2Proof.Machine.execInit s
  | .rcur => Sys2Proof.Machine.execRcur s
  | .setbuf capacity => Sys2Proof.Machine.execSetbuf capacity s
  | .save => Sys2Proof.Machine.execSave s
  | .load record => Sys2Proof.Machine.execLoad record s

end Sys2Proof.Machine
end

