-- ==== Sys2Proof/Machine/Present.lean ====
section
/-! DEFINITION. Running one presented command: decode its word, then execute the command it spells. -/

namespace Sys2Proof.Machine

open Sys2Proof

/-- Run a presented command: a word that spells no command is refused, and takes no step (R48, R101). -/
def runPresented (c : HostCommand) (s : State) : Result :=
  match decode c with
  | .ok i => exec i s
  | .error why => .refused (.invalidWord c.word why)

/-- The next presented command, taken off the queue and run. With none presented the chip "holds its state unchanged,
however long the host waits" (R109; log 6). -/
def runNext (s : State) : Result :=
  match s.pending with
  | [] => .next s
  | c :: rest => runPresented c (s.setPending rest)

/-- The state with a command presented before every other (log 9). -/
def State.present (s : State) (c : HostCommand) : State := s.setPending (c :: s.pending)

end Sys2Proof.Machine
end

