-- ==== Sys2Proof/Machine/Step.lean ====
section
/-! DEFINITION. One step of the machine. -/

namespace Sys2Proof.Machine

open Sys2Proof

/-- One step. A faulted state is terminal: "No later command has a step" (R98), so it answers the recorded fault, and a
refused run takes no step either (R101). Otherwise the next presented command runs (R3, R4, R25). -/
def step (s : State) : Host.Outcome State Fault Refusal :=
  match s.fault with
  | some f => .fault f
  | none =>
    match s.refusal with
    | some r => .refused r
    | none => runNext s

/-- The state with an opcode-table word presented as the next command (log 9). -/
def State.withFetchWord (s : State) (nbits w : Nat) : State := s.present (HostCommand.ofTableWord nbits w)

end Sys2Proof.Machine
end

