-- ==== Sys2Proof/Machine/Assembler.lean ====
section
/-! DEFINITION. The assembler's lines (R50) and the pseudo-instructions (R51; log 15). -/

namespace Sys2Proof.Machine

open Sys2Proof

/-- A line's command: a base command (R50) or a pseudo-instruction (R51). -/
inductive AsmCommand where
  | base (i : Instr)
  | wreg (r v : Byte)
  | rreg (r : Byte)
  | tone (ch : Channel) (p : BitVec 12)
  | noisep (p : BitVec 5)
  | mix (m : Byte)
  | level (ch : Channel) (v : Byte)
  | envp (p : BitVec 16)
  | shape (s : Byte)
  | run (n : Nat)
deriving DecidableEq, Repr

/-- `WREG r, v` is `SEL r ; WR v` (R51). -/
def expandWreg (r v : Byte) : List Instr := [.sel r, .wr v]

/-- The base commands of a line, in order (R51). TONE and ENVP write the low byte first. -/
def AsmCommand.expand : AsmCommand → List Instr
  | .base i => [i]
  | .wreg r v => expandWreg r v
  | .rreg r => [.sel r, .rd]
  | .tone ch p =>
    expandWreg (BitVec.ofNat 8 (2 * ch.index)) (p.extractLsb' 0 8)
      ++ expandWreg (BitVec.ofNat 8 (2 * ch.index + 1)) ((p.extractLsb' 8 4).zeroExtend 8)
  | .noisep p => expandWreg 6 (p.zeroExtend 8)
  | .mix m => expandWreg 7 m
  | .level ch v => expandWreg (BitVec.ofNat 8 (8 + ch.index)) v
  | .envp p => expandWreg 11 (p.extractLsb' 0 8) ++ expandWreg 12 (p.extractLsb' 8 8)
  | .shape s => expandWreg 13 s
  | .run n => List.replicate n .cyc

/-- The base commands of a program of lines. -/
def assemble (p : List AsmCommand) : List Instr := p.flatMap AsmCommand.expand

/-- A space, a tab or a comma separates the words of a line. -/
def isSeparator (c : Char) : Bool := c == ' ' || c == '\t' || c == ','

/-- The words of a line after `cur`, the reversed letters of the word being read. -/
def wordsFrom (cur : List Char) : List Char → List String
  | [] => if cur.isEmpty then [] else [String.ofList cur.reverse]
  | c :: cs =>
    if isSeparator c then
      if cur.isEmpty then wordsFrom [] cs else String.ofList cur.reverse :: wordsFrom [] cs
    else wordsFrom (c :: cur) cs

/-- The words of a line, its comment left out: "A `;` starts a comment that runs to the end of the line" (R50). -/
def wordsOf (line : String) : List String := wordsFrom [] (line.toList.takeWhile (· != ';'))

/-- The value of one digit. -/
def digitOf (c : Char) : Option Nat :=
  if '0' ≤ c ∧ c ≤ '9' then some (c.toNat - '0'.toNat)
  else if 'a' ≤ c ∧ c ≤ 'f' then some (c.toNat - 'a'.toNat + 10)
  else if 'A' ≤ c ∧ c ≤ 'F' then some (c.toNat - 'A'.toNat + 10)
  else none

/-- Read digits in a base, after the value `acc`. -/
def digitsFrom (base acc : Nat) : List Char → Option Nat
  | [] => some acc
  | c :: cs =>
    match digitOf c with
    | some d => if d < base then digitsFrom base (base * acc + d) cs else none
    | none => none

/-- "Operands are written in decimal or as `0x` hexadecimal" (R50). -/
def numberOf (w : String) : Option Nat :=
  match w.toList with
  | [] => none
  | ['0', 'x'] => none
  | '0' :: 'x' :: cs => digitsFrom 16 0 cs
  | cs => digitsFrom 10 0 cs

/-- A number operand below `2 ^ bits`. -/
def operandOf (bits : Nat) (w : String) : Option (BitVec bits) :=
  match numberOf w with
  | some n => if n < 2 ^ bits then some (BitVec.ofNat bits n) else none
  | none => none

/-- A channel operand (R51). -/
def channelOf (w : String) : Option Channel :=
  [("A", Channel.A), ("B", .B), ("C", .C)].lookup w

/-- The forms without an operand (R50). -/
def plainForms : List (String × AsmCommand) :=
  [("RD", .base .rd), ("CYC", .base .cyc), ("INIT", .base .init), ("RCUR", .base .rcur), ("SAVE", .base .save)]

/-- The forms with one operand (R50, R51); `names` gives the records LOAD may name. -/
def oneOperandForm (names : List (String × Record)) (m a : String) : Option AsmCommand :=
  if m = "SEL" then (operandOf 8 a).map fun d => .base (.sel d)
  else if m = "WR" then (operandOf 8 a).map fun d => .base (.wr d)
  else if m = "WIO" then (operandOf 8 a).map fun d => .base (.wio d)
  else if m = "SETBUF" then (numberOf a).map fun n => .base (.setbuf n)
  else if m = "LOAD" then (names.lookup a).map fun r => .base (.load r)
  else if m = "RREG" then (operandOf 8 a).map .rreg
  else if m = "NOISEP" then (operandOf 5 a).map .noisep
  else if m = "MIX" then (operandOf 8 a).map .mix
  else if m = "ENVP" then (operandOf 16 a).map .envp
  else if m = "SHAPE" then (operandOf 8 a).map .shape
  else if m = "RUN" then (numberOf a).map .run
  else none

/-- The forms with two operands (R51). -/
def twoOperandForm (m a b : String) : Option AsmCommand :=
  if m = "WREG" then (operandOf 8 a).bind fun r => (operandOf 8 b).map fun v => .wreg r v
  else if m = "TONE" then (channelOf a).bind fun ch => (operandOf 12 b).map fun p => .tone ch p
  else if m = "LEVEL" then (channelOf a).bind fun ch => (operandOf 8 b).map fun v => .level ch v
  else none

/-- Read the command of a line that holds these words (R50, R51). -/
def commandOf (names : List (String × Record)) (ws : List String) : Option AsmCommand :=
  match ws with
  | [m] => plainForms.lookup m
  | [m, a] => oneOperandForm names m a
  | [m, a, b] => twoOperandForm m a b
  | _ => none

/-- Assemble one line: "Each line holds one command" (R50). A line without a word holds none. -/
def assembleLine (names : List (String × Record)) (line : String) : Option (List Instr) :=
  match wordsOf line with
  | [] => some []
  | ws => (commandOf names ws).map AsmCommand.expand

end Sys2Proof.Machine
end

