-- ==== Sys2Proof/Machine/Instances.lean ====
section
/-! DEFINITION. Several chips: independent instances, each with its own state and its own sink (R3, R43, R107). -/

namespace Sys2Proof.Machine

open Sys2Proof

/-- The states of several chip instances (log 18). -/
abbrev Chips := List State

/-- One step of instance `k`: "A command to one instance reads and writes only that instance" (R43). A number that
names no instance steps nothing. -/
def stepInstance (k : Nat) (chips : Chips) : Host.Outcome Chips Fault Refusal :=
  match chips[k]? with
  | none => .next chips
  | some s =>
    match step s with
    | .next t => .next (chips.set k t)
    | .fault f => .fault f
    | .refused r => .refused r

end Sys2Proof.Machine
end

