-- ==== Sys2Proof/Machine/Run.lean ====
section
/-! DEFINITION. Runs: the state a sequence of presented commands leaves, marks included (R101, R114), and the same
over commands without their words. -/

namespace Sys2Proof.Machine

open Sys2Proof

/-- The state a run is in after one step. A fault leaves the state as it is, stuck (R98); a refusal takes no step and
sets the refusal mark (R101). -/
def advanceRun (s : State) : State :=
  match step s with
  | .next t => t
  | .fault _ => s
  | .refused r => s.markRefused r

/-- The state a run is in after `n` steps. -/
def runSteps : Nat → State → State
  | 0, s => s
  | n + 1, s => runSteps n (advanceRun s)

/-- The state with a host program presented after what is already pending (R4). -/
def State.presentProgram (s : State) (p : List Instr) : State := s.setPending (s.pending ++ p.map encode)

/-- The state in which the run of a host program ends: one step a command (R4, R37). -/
def runProgram (p : List Instr) (s : State) : State :=
  runSteps (s.pending.length + p.length) (s.presentProgram p)

/-- The same run at the level of commands (R4): one command after another, each read from the state its predecessor
left (R37), until a mark ends the run (R98, R101). -/
def execAll : List Instr → State → State
  | [], s => s
  | i :: p, s =>
    if s.fault.isSome || s.refusal.isSome then s
    else
      match exec i s with
      | .next t => execAll p t
      | .fault _ => s
      | .refused r => s.markRefused r

end Sys2Proof.Machine
end

