-- ==== Sys2Proof/Safety.lean ====
section
/-! DEFINITION. What counts as a good state and a successful run, in the terms the statements use. -/

namespace Sys2Proof.Machine

open Sys2Proof

/-- Every stored register keeps its mask: `reg[i] & ~REG_MASK[i] = 0` (R10). -/
def Chip.masksKept (c : Chip) : Prop := ∀ r : RegIndex, c.reg r &&& ~~~regMask r = 0

/-- The invariants of the chip record that every command keeps (R10, R73): the masks, and an LFSR that is not 0. -/
def Chip.Sound (c : Chip) : Prop := c.masksKept ∧ c.noise.shift ≠ 0

/-- The sink's invariant: the buffer's contents are in canonical form and inside the capacity (R23, R27, R89). -/
def State.sinkSound (s : State) : Prop :=
  Memory.wf s.written = true ∧
    match s.sinkCap with
    | none => s.written = []
    | some cap => ∀ i v, Memory.read s.written i = some v → i < cap

/-- The invariant of the whole state. The chip record is bound only once it holds a value (R111). -/
def State.Sound (s : State) : Prop := (s.initialized = true → s.chip.Sound) ∧ s.sinkSound

/-- The range of the counters (R16). -/
def Chip.countersInRange (c : Chip) : Prop :=
  (∀ ch, (c.channel ch).counter.toNat ≤ 4094) ∧ c.noise.counter.toNat ≤ 61 ∧ c.env.counter.toNat ≤ 131069

/-- Derived-state consistency (R21): each cached field is its derivation's projection of the registers, or, for a tone
or noise period, 0 with its registers still 0. -/
def Chip.consistent (c : Chip) : Prop :=
  (∀ ch, (c.channel ch).period = tonePeriodOf (c.reg (toneLowRegister ch)) (c.reg (toneHighRegister ch)) ∨
    ((c.channel ch).period = 0 ∧ c.reg (toneLowRegister ch) = 0 ∧ c.reg (toneHighRegister ch) = 0)) ∧
  (c.noise.period = noisePeriodOf (c.reg 6) ∨ (c.noise.period = 0 ∧ c.reg 6 = 0)) ∧
  (∀ ch, (c.channel ch).toneDisabled = toneDisableBit (c.reg 7) ch) ∧
  (∀ ch, (c.channel ch).noiseDisabled = noiseDisableBit (c.reg 7) ch) ∧
  (∀ ch, (c.channel ch).amplitude = amplitudeOf (c.reg (levelRegister ch))) ∧
  (∀ ch, (c.channel ch).envMode = envModeBit (c.reg (levelRegister ch))) ∧
  c.env.period = envPeriodOf (c.reg 11) (c.reg 12)

/-- The chip state holds a value and no mark has ended the run. -/
def State.Running (s : State) : Prop := s.initialized = true ∧ s.fault = none ∧ s.refusal = none

/-- The host's buffer has room for `n` more samples (R84, R121). -/
def State.RoomFor (s : State) (n : Nat) : Prop := ∃ cap, s.sinkCap = some cap ∧ s.cursor + n ≤ cap

/-- A run has ended successfully: "the host's command sequence is exhausted, no fault is recorded and no refusal is
marked" (R114). -/
def State.endedWell (s : State) : Bool := s.pending.isEmpty && s.fault.isNone && s.refusal.isNone

end Sys2Proof.Machine
end

