-- ==== Sys2Proof/Certificates/Slice0/Obligations.lean ====
section
/-! DEFINITION. The statements about the machine, each written from numbered rules of spec/ in the spec's own
arithmetic: naturals, and the tables the rules print. -/

open Sys2Proof Sys2Proof.Machine

namespace Sys2Proof.Rules

/-- A row of R45's table: mnemonic, match, mask, and the command with the operand of R46 or R47. -/
def opRows : List (String × Nat × Nat × (HostCommand → Instr)) :=
  [("SEL", 0x1000, 0xFF00, fun c => .sel (BitVec.ofNat 8 (c.word.toNat % 256))),
   ("RD", 0x2000, 0xFFFF, fun _ => .rd),
   ("WR", 0x3000, 0xFF00, fun c => .wr (BitVec.ofNat 8 (c.word.toNat % 256))),
   ("WIO", 0x4000, 0xFF00, fun c => .wio (BitVec.ofNat 8 (c.word.toNat % 256))),
   ("CYC", 0x5000, 0xFFFF, fun _ => .cyc),
   ("INIT", 0x6000, 0xFFFF, fun _ => .init),
   ("RCUR", 0x7000, 0xFFFF, fun _ => .rcur),
   ("SETBUF", 0x8000, 0xFFFF, fun c => .setbuf c.capacity),
   ("SAVE", 0x9000, 0xFFFF, fun _ => .save),
   ("LOAD", 0xA000, 0xFFFF, fun c => .load c.record)]

/-- `REG_MASK` as R5 and R12 print it (log 11). -/
def maskTable : List Nat :=
  [0xFF, 0x0F, 0xFF, 0x0F, 0xFF, 0x0F, 0x1F, 0xFF, 0x1F, 0x1F, 0x1F, 0xFF, 0xFF, 0x0F, 0xFF, 0xFF]

/-- The masked store of R54 and nothing else of the register file or the latch. -/
def StoresMasked (before after : Chip) (r : RegIndex) (d : Byte) : Prop :=
  (∀ r', after.reg r' = if r' = r then d &&& regMask r else before.reg r') ∧ after.latch = before.latch

/-- The running state of the tone and noise generators is the same (R63). -/
def SameToneNoiseRunning (before after : Chip) : Prop :=
  (∀ ch, (after.channel ch).counter = (before.channel ch).counter ∧
    (after.channel ch).sign = (before.channel ch).sign) ∧
  after.noise.counter = before.noise.counter ∧ after.noise.shift = before.noise.shift

/-- The running state of the envelope is the same (R63). -/
def SameEnvRunning (before after : Chip) : Prop :=
  after.env.counter = before.env.counter ∧ after.env.segment = before.env.segment ∧
  after.env.step = before.env.step ∧ after.env.volume = before.env.volume

/-- `VOLUME_TABLE` as R87 prints it. -/
def dacTable : List Nat := [0, 40, 60, 86, 124, 186, 264, 440, 518, 840, 1196, 1526, 2016, 2602, 3300, 4096]

/-- What channel `ch` adds to the sample of a cycle that left chip state `c` (R85, R86, R87). -/
def channelTerm (c : Chip) (ch : Channel) : Nat :=
  if ((c.channel ch).toneDisabled = true ∨ (c.channel ch).sign = true) ∧
      ((c.channel ch).noiseDisabled = true ∨ c.noise.shift.getLsbD 0 = true) then
    dacTable.getD (if (c.channel ch).envMode = true then c.env.volume.toNat else (c.channel ch).amplitude.toNat) 0
  else 0

/-- `EnvReset`'s volume (R77), over the shape as a number. -/
def resetVolume (shape : Nat) (segment : Bool) : Nat :=
  if segment = true then (if shape ∈ [8, 11, 13, 14] then 15 else 0)
  else (if shape &&& 4 ≠ 0 then 0 else 15)

/-- `EnvAdvance`'s change of the volume (R79), over naturals. -/
def movedVolume (shape : Nat) (segment : Bool) (step volume : Nat) : Nat :=
  if step = 0 then volume
  else if segment = true then
    (if shape ∈ [10, 12] then (volume + 1) % 16
     else if shape ∈ [8, 14] then (volume + 15) % 16
     else volume)
  else (if shape &&& 4 ≠ 0 then (volume + 1) % 16 else (volume + 15) % 16)

/-- The falling, rising, silent and full rows of R82's table, as visible volumes. -/
def falling : List Nat := [15, 15, 14, 13, 12, 11, 10, 9, 8, 7, 6, 5, 4, 3, 2, 1]

def rising : List Nat := [0, 0, 1, 2, 3, 4, 5, 6, 7, 8, 9, 10, 11, 12, 13, 14]

def silent : List Nat := List.replicate 16 0

def full : List Nat := List.replicate 16 15

/-- R82's table: for each shape whether it toggles, and the visible volumes of segment 0 and of segment 1. -/
def shapeRows : List (Bool × List Nat × List Nat) :=
  [(false, falling, silent), (false, falling, silent), (false, falling, silent), (false, falling, silent),
   (false, rising, silent), (false, rising, silent), (false, rising, silent), (false, rising, silent),
   (true, falling, falling), (false, falling, silent), (true, falling, rising), (false, falling, full),
   (true, rising, rising), (false, rising, full), (true, rising, falling), (false, rising, silent)]

/-- The row of a shape. -/
def shapeRow (shape : Nat) : Bool × List Nat × List Nat := shapeRows.getD shape (false, silent, silent)

/-- The segment after `k` advances from a shape write: toggling every 16, or 1 after the first 16 (R81). -/
def segmentAfter (shape k : Nat) : Bool :=
  if (shapeRow shape).1 = true then decide (k / 16 % 2 = 1) else decide (16 ≤ k)

/-- The volume after `k` advances from a shape write: R82's table. -/
def volumeAfter (shape k : Nat) : Nat :=
  ((if segmentAfter shape k = true then (shapeRow shape).2.2 else (shapeRow shape).2.1).getD (k % 16) 0)

/-- How many times a divider with threshold `2 * period` has rolled over after `n` cycles from counter 0; a period of 0
rolls over on every cycle (R70, R74, R78). -/
def rollovers (period n : Nat) : Nat := if period = 0 then n else n / (2 * period)

/-- The same divider's counter after those cycles. -/
def dividerCount (period n : Nat) : Nat := if period = 0 then 0 else n % (2 * period)

/-- One channel's part of a record is within its widths (R10, R95). -/
def ChannelFits (r : RecordChannel) : Prop :=
  r.period < 4096 ∧ r.counter < 4096 ∧ r.sign < 2 ∧ r.amplitude < 16 ∧ r.toneDisabled < 2 ∧ r.noiseDisabled < 2 ∧
  r.envMode < 2

/-- `WellFormed(s)` of R95: widths, masks, and `noise_shift` not 0. -/
def RecordFits (r : Record) : Prop :=
  (∀ i : Fin 16, r.regs[i.val] < 256 ∧
    BitVec.ofNat 8 r.regs[i.val] &&& ~~~regMask (BitVec.ofNat 4 i.val) = 0) ∧
  r.latch < 16 ∧ (∀ ch, ChannelFits (r.channel ch)) ∧
  r.noisePeriod < 32 ∧ r.noiseCounter < 64 ∧ r.noiseShift < 131072 ∧ r.noiseShift ≠ 0 ∧
  r.envPeriod < 65536 ∧ r.envCounter < 131072 ∧ r.segment < 2 ∧ r.step < 16 ∧ r.volume < 16

/-- The fields of R10's table, row by row, and by index inside a row (log 8). -/
def tableFields : List RecordField :=
  [.reg 0, .reg 1, .reg 2, .reg 3, .reg 4, .reg 5, .reg 6, .reg 7] ++
  [.reg 8, .reg 9, .reg 10, .reg 11, .reg 12, .reg 13, .reg 14, .reg 15] ++
  [.latch, .tonePeriod .A, .tonePeriod .B, .tonePeriod .C, .toneCounter .A, .toneCounter .B, .toneCounter .C] ++
  [.sign .A, .sign .B, .sign .C, .amplitude .A, .amplitude .B, .amplitude .C] ++
  [.toneDisabled .A, .toneDisabled .B, .toneDisabled .C, .noiseDisabled .A, .noiseDisabled .B, .noiseDisabled .C] ++
  [.envMode .A, .envMode .B, .envMode .C, .noisePeriod, .noiseCounter, .noiseShift] ++
  [.envPeriod, .envCounter, .segment, .step, .volume]

/-- One field of a record passes R95's checks: its width in R10, a register's mask, and `noise_shift` not 0. -/
def FieldFits (r : Record) : RecordField → Prop
  | .reg i => r.regs[i.toNat]'(i.isLt) < 256 ∧ BitVec.ofNat 8 (r.regs[i.toNat]'(i.isLt)) &&& ~~~regMask i = 0
  | .latch => r.latch < 16
  | .tonePeriod ch => (r.channel ch).period < 4096
  | .toneCounter ch => (r.channel ch).counter < 4096
  | .sign ch => (r.channel ch).sign < 2
  | .amplitude ch => (r.channel ch).amplitude < 16
  | .toneDisabled ch => (r.channel ch).toneDisabled < 2
  | .noiseDisabled ch => (r.channel ch).noiseDisabled < 2
  | .envMode ch => (r.channel ch).envMode < 2
  | .noisePeriod => r.noisePeriod < 32
  | .noiseCounter => r.noiseCounter < 64
  | .noiseShift => r.noiseShift < 131072 ∧ r.noiseShift ≠ 0
  | .envPeriod => r.envPeriod < 65536
  | .envCounter => r.envCounter < 131072
  | .segment => r.segment < 2
  | .step => r.step < 16
  | .volume => r.volume < 16

/-- A channel holds exactly the values of a record's part: 1 is true, 0 is false (R7, R10). -/
def ChannelHolds (t : ToneChannel) (r : RecordChannel) : Prop :=
  t.period.toNat = r.period ∧ t.counter.toNat = r.counter ∧ t.sign.toNat = r.sign ∧
  t.amplitude.toNat = r.amplitude ∧ t.toneDisabled.toNat = r.toneDisabled ∧
  t.noiseDisabled.toNat = r.noiseDisabled ∧ t.envMode.toNat = r.envMode

/-- A chip state holds exactly the values of a record, field by field (R10). -/
def ChipHolds (c : Chip) (r : Record) : Prop :=
  (∀ i : Fin 16, (c.reg (BitVec.ofNat 4 i.val)).toNat = r.regs[i.val]) ∧ c.latch.toNat = r.latch ∧
  (∀ ch, ChannelHolds (c.channel ch) (r.channel ch)) ∧
  c.noise.period.toNat = r.noisePeriod ∧ c.noise.counter.toNat = r.noiseCounter ∧
  c.noise.shift.toNat = r.noiseShift ∧ c.env.period.toNat = r.envPeriod ∧ c.env.counter.toNat = r.envCounter ∧
  c.env.segment.toNat = r.segment ∧ c.env.step.toNat = r.step ∧ c.env.volume.toNat = r.volume

/-- The code of the fault a command raises, 0 for none, except LOAD's (R97, R100). -/
def faultCode (i : Instr) (s : State) : Nat :=
  match i with
  | .sel d => if s.initialized = false then 5 else if 15 < d.toNat then 1 else 0
  | .rd => if s.initialized = false then 5 else 0
  | .wr _ => if s.initialized = false then 5 else 0
  | .wio _ => if s.initialized = false then 5 else 0
  | .cyc =>
    if s.initialized = false then 5
    else match s.sinkCap with
      | none => 2
      | some cap => if cap ≤ s.cursor then 3 else 0
  | .init => 0
  | .rcur => 0
  | .setbuf _ => 0
  | .save => if s.initialized = false then 5 else 0
  | .load _ => 0

end Sys2Proof.Rules

open Sys2Proof.Rules

/-! ## Steps, faults and refusals -/

/-- A step runs the command the next presented word spells, on the state with that command taken off the queue (R3, R4,
R25; the queue is the model's, log 5). -/
def Obligations.StepRunsPresentedCommand : Prop :=
  ∀ (s : State) (c : HostCommand) (rest : List HostCommand) (i : Instr),
    s.fault = none → s.refusal = none → s.pending = c :: rest → decode c = .ok i →
      step s = exec i { s with pending := rest }

/-- With no command presented a step leaves the state as it is (R109; log 6). -/
def Obligations.WaitingChangesNothing : Prop :=
  ∀ s : State, s.fault = none → s.refusal = none → s.pending = [] → step s = .next s

/-- An opcode-table word presented as the next command is run by the very next step (log 9). -/
def Obligations.FetchedWordRunsNext : Prop :=
  ∀ (s : State) (w : Nat) (i : Instr), s.fault = none → s.refusal = none → decodeTableWord 16 w = some i →
    step (s.withFetchWord 16 w) = exec i s

/-- R98, R99: a command that raises a fault changes the mark alone; the faulted state is terminal, whatever is presented,
and is never a successful end. -/
def Obligations.FaultEntryIsPreciseAndTerminal : Prop :=
  (∀ (i : Instr) (s t : State), exec i s = .next t → t.fault ≠ s.fault → ∃ f, t = { s with fault := some f }) ∧
  (∀ (s : State) (f : Fault), s.fault = some f →
    step s = .fault f ∧ (∀ n, runSteps n s = s) ∧ s.endedWell = false)

/-- R100: which code a command reports, in the order the rule gives; LOAD raises only F_BAD_SNAPSHOT. The command always
answers a next state, with the mark or with its effect. -/
def Obligations.FirstFaultCauseIsReported : Prop :=
  ∀ (i : Instr) (s : State), s.fault = none → ∃ t, exec i s = .next t ∧
    ((∀ r, i ≠ .load r) → (t.fault.map Fault.code).getD 0 = faultCode i s) ∧
    (∀ r, i = .load r → (t.fault.map Fault.code).getD 0 = 0 ∨ (t.fault.map Fault.code).getD 0 = 4)

/-- R97's recorded values: the operand for SEL, nothing for a missing sink, the cursor for a full sink, and, as log 8
reads them, the whole command for F_UNINIT and for F_BAD_SNAPSHOT the first field, in the order of R10's table, that
fails R95's checks. -/
def Obligations.FaultRecordsItsValue : Prop :=
  (∀ (d : Byte) (s : State), s.initialized = true → 15 < d.toNat →
    exec (.sel d) s = .next { s with fault := some (.badIndex d) }) ∧
  (∀ (s : State), s.initialized = true → s.sinkCap = none →
    exec .cyc s = .next { s with fault := some .noBuffer }) ∧
  (∀ (s : State) (cap : Nat), s.initialized = true → s.sinkCap = some cap → cap ≤ s.cursor →
    exec .cyc s = .next { s with fault := some (.sinkFull s.cursor) }) ∧
  (∀ (i : Instr) (s : State), s.initialized = false →
    (i = .rd ∨ i = .cyc ∨ i = .save ∨ (∃ d, i = .sel d ∨ i = .wr d ∨ i = .wio d)) →
      exec i s = .next { s with fault := some (.uninit i) }) ∧
  (∀ (r : Record) (s : State), ¬ RecordFits r → ∃ earlier f later, tableFields = earlier ++ f :: later ∧
    exec (.load r) s = .next { s with fault := some (.badSnapshot f) } ∧
    ¬ FieldFits r f ∧ ∀ g ∈ earlier, FieldFits r g)

/-- R121: a CYC with no room faults F_SINK_FULL, and writes, drops and wraps nothing. -/
def Obligations.FullSinkFaultsAndKeepsSamples : Prop :=
  ∀ (s : State) (cap : Nat), s.initialized = true → s.sinkCap = some cap → cap ≤ s.cursor →
    ∃ t f, exec .cyc s = .next t ∧ t.fault = some f ∧ f.code = 3 ∧ t.written = s.written ∧ t.cursor = s.cursor ∧
      t.emitted = s.emitted ∧ t.chip = s.chip

/-- R101: an invalid word is refused, takes no step, and marks the whole run, which never ends well. -/
def Obligations.InvalidWordIsRefusedAndMarksTheRun : Prop :=
  ∀ (s : State) (c : HostCommand) (rest : List HostCommand),
    s.fault = none → s.refusal = none → s.pending = c :: rest → (∀ i, decode c ≠ .ok i) →
      ∃ r, step s = .refused r ∧
        ∀ n, runSteps (n + 1) s = { s with refusal := some r } ∧ (runSteps (n + 1) s).endedWell = false

/-! ## Encoding -/

/-- R48: a word spells no command, and is refused, in exactly three cases. -/
def Obligations.RefusedWordsAreTheThreeCases : Prop :=
  ∀ c : HostCommand,
    ((∀ s : State, ∃ r, runPresented c s = .refused r) ↔
      ((c.word.toNat / 4096 = 0 ∨ 11 ≤ c.word.toNat / 4096) ∨
        c.word.toNat / 256 % 16 ≠ 0 ∨
        (c.word.toNat / 4096 ∉ [1, 3, 4] ∧ c.word.toNat % 256 ≠ 0)))

/-- R45: a word spells the row whose `(w & mask) = match`, at most one row matches, and a word that matches no row spells
nothing; the operands are those of R46 and R47. -/
def Obligations.WordSpellsItsTableRow : Prop :=
  ∀ c : HostCommand,
    (∀ m pat mask build, (m, pat, mask, build) ∈ opRows → c.word.toNat &&& mask = pat →
      decode c = .ok (build c) ∧ (build c).mnemonic = m ∧
        ∀ m' pat' mask' build', (m', pat', mask', build') ∈ opRows → c.word.toNat &&& mask' = pat' → m' = m) ∧
    ((∀ m pat mask build, (m, pat, mask, build) ∈ opRows → c.word.toNat &&& mask ≠ pat) →
      ∃ why, decode c = .error why)

/-- R49, an inference the spec draws from R45 and R48: every word decodes to a command or to "invalid", and exactly 775
words are valid. -/
def Obligations.ExactlySevenHundredSeventyFiveWords : Prop :=
  ∀ (capacity : Nat) (record : Record),
    (∀ w : Word, (∃ i, decode ⟨w, capacity, record⟩ = .ok i) ∨ (∃ why, decode ⟨w, capacity, record⟩ = .error why)) ∧
    (Finset.univ.filter fun w : Word => (decode ⟨w, capacity, record⟩).toOption.isSome = true).card = 775

/-- Decode and encode agree on every instruction, with every operand; and a word that spells a command is the word of
its encoding, so that no bit of it is dropped. -/
def Obligations.DecodeOfEncodeIsIdentity : Prop :=
  (∀ i : Instr, decode (encode i) = .ok i) ∧
  (∀ (c : HostCommand) (i : Instr), decode c = .ok i → (encode i).word = c.word)

/-- The words of 95_test_vectors.md that its table decodes, as R45 lays them out bit by bit. -/
def Obligations.TableWordsDecode : Prop :=
  decodeTableWord 16 0b0001000000000111 = some (.sel 7) ∧
  decodeTableWord 16 0b0010000000000000 = some .rd ∧
  decodeTableWord 16 0b0011000010101011 = some (.wr 0xAB) ∧
  decodeTableWord 16 0b0100000011111111 = some (.wio 0xFF) ∧
  decodeTableWord 16 0b0101000000000000 = some .cyc ∧
  decodeTableWord 16 0b0110000000000000 = some .init ∧
  decodeTableWord 16 0b0111000000000000 = some .rcur ∧
  decodeTableWord 16 0b1001000000000000 = some .save ∧
  decodeTableWord 16 0b0000000000000000 = none ∧
  decodeTableWord 16 0b0011000100000000 = none ∧
  decodeTableWord 16 0b0010000000000001 = none

/-! ## Reset and launch -/

/-- R91: INIT gives the chip state R26's table and sets `initialized`, from every state, and changes nothing else. -/
def Obligations.InitGivesTheResetTable : Prop :=
  ∀ s : State, ∃ c : Chip, exec .init s = .next { s with chip := c, initialized := true } ∧
    (∀ r : RegIndex, c.reg r = if r = 14 then 0xFF else 0) ∧ c.latch = 0 ∧
    (∀ ch, c.channel ch =
      { period := 0, counter := 0, sign := false, amplitude := 0, toneDisabled := false, noiseDisabled := false,
        envMode := false }) ∧
    c.noise = { period := 0, counter := 0, shift := 1 } ∧
    c.env = { period := 0, counter := 0, segment := false, step := 0, volume := 0 }

/-- The model's reset state is what INIT leaves at the start of a launch, whatever the chip held there, and running it
through the word 0x6000 gives the same (log 1). -/
def Obligations.ResetIsInitAtLaunch : Prop :=
  ∀ c : Chip, exec .init (State.launch c) = .next State.reset ∧
    step ((State.launch c).withFetchWord 16 0x6000) = .next State.reset

/-- R111: before the first INIT or LOAD no command reads the chip state: whatever it holds, the six commands that would
read it fault F_UNINIT, and the other four answer alike. -/
def Obligations.UninitializedChipIsNeverRead : Prop :=
  ∀ (i : Instr) (s : State) (c c' : Chip), s.initialized = false →
    ∃ t t', exec i { s with chip := c } = .next t ∧ exec i { s with chip := c' } = .next t' ∧
      ((t.initialized = true ∧ t' = t) ∨
        (t.initialized = false ∧ t.chip = c ∧ t' = { t with chip := c' })) ∧
      ((i = .rd ∨ i = .cyc ∨ i = .save ∨ (∃ d, i = .sel d ∨ i = .wr d ∨ i = .wio d)) →
        ∃ f, t.fault = some f ∧ f.code = 5) ∧
      ((i = .init ∨ i = .rcur ∨ (∃ n, i = .setbuf n) ∨ (∃ r, i = .load r ∧ RecordFits r)) → t.fault = s.fault)

/-! ## The register bus -/

/-- R52: SEL. -/
def Obligations.SelSetsTheLatchAlone : Prop :=
  ∀ (d : Byte) (s : State),
    (s.initialized = true → d.toNat ≤ 15 →
      exec (.sel d) s = .next { s with chip := { s.chip with latch := BitVec.ofNat 4 d.toNat } }) ∧
    (s.initialized = true → 15 < d.toNat → exec (.sel d) s = .next { s with fault := some (.badIndex d) }) ∧
    (s.initialized = false → ∃ f, exec (.sel d) s = .next { s with fault := some f } ∧ f.code = 5)

/-- R53: RD. -/
def Obligations.RdReturnsTheLatchedRegister : Prop :=
  ∀ s : State,
    (s.initialized = true → exec .rd s = .next { s with outputs := s.outputs ++ [.byte (s.chip.reg s.chip.latch)] }) ∧
    (s.initialized = false → ∃ f, exec .rd s = .next { s with fault := some f } ∧ f.code = 5)

/-- R13 and the source's readback property L1-1: every register takes every byte, keeps the bits of its mask, and gives
them back: SEL r, WR d, RD returns `d & REG_MASK[r]`, and the masks are those R5 and R12 print (log 11). -/
def Obligations.WrittenRegisterReadsBackMasked : Prop :=
  ∀ (r : RegIndex) (d : Byte) (s : State), s.Running →
    (execAll [.sel (r.zeroExtend 8), .wr d, .rd] s).outputs = s.outputs ++ [.byte (d &&& regMask r)] ∧
    (∀ r', (execAll [.sel (r.zeroExtend 8), .wr d, .rd] s).chip.reg r' =
      if r' = r then d &&& regMask r else s.chip.reg r') ∧
    (execAll [.sel (r.zeroExtend 8), .wr d, .rd] s).Running ∧
    (regMask r).toNat = maskTable.getD r.toNat 0

/-- R55: a WR to register 2i or 2i+1 recomputes channel i's period from both stored bytes, clamps 0 to 1, and leaves the
counter, the phase and everything else alone. The masks of the stored registers are the invariant of `SoundIsKept`. -/
def Obligations.WrToTonePairSetsThePeriod : Prop :=
  ∀ (s : State) (d : Byte) (ch : Channel), s.initialized = true → s.chip.masksKept →
    (s.chip.latch.toNat = 2 * ch.index ∨ s.chip.latch.toNat = 2 * ch.index + 1) →
      ∃ c : Chip, exec (.wr d) s = .next { s with chip := c } ∧ StoresMasked s.chip c s.chip.latch d ∧
        (c.channel ch).period.toNat =
          (let p := (c.reg (BitVec.ofNat 4 (2 * ch.index))).toNat |||
              ((c.reg (BitVec.ofNat 4 (2 * ch.index + 1))).toNat <<< 8)
           if p = 0 then 1 else p) ∧
        c.channel ch = { s.chip.channel ch with period := (c.channel ch).period } ∧
        (∀ j, j ≠ ch → c.channel j = s.chip.channel j) ∧ c.noise = s.chip.noise ∧ c.env = s.chip.env

/-- R56: a WR to register 6 recomputes the noise period from the low 5 bits, clamps 0 to 1, and leaves the counter and
the LFSR alone. -/
def Obligations.WrToRegisterSixSetsTheNoisePeriod : Prop :=
  ∀ (s : State) (d : Byte), s.initialized = true → s.chip.latch = 6 →
    ∃ c : Chip, exec (.wr d) s = .next { s with chip := c } ∧ StoresMasked s.chip c 6 d ∧
      c.noise.period.toNat = (if d.toNat % 32 = 0 then 1 else d.toNat % 32) ∧
      c.noise = { s.chip.noise with period := c.noise.period } ∧
      (∀ ch, c.channel ch = s.chip.channel ch) ∧ c.env = s.chip.env

/-- R57: a WR to register 7 sets the six disable flags, bit i and bit 3+i for channel i, and nothing else but the
register; bits 6 and 7 are stored. -/
def Obligations.WrToRegisterSevenSetsTheDisableFlags : Prop :=
  ∀ (s : State) (d : Byte), s.initialized = true → s.chip.latch = 7 →
    ∃ c : Chip, exec (.wr d) s = .next { s with chip := c } ∧ StoresMasked s.chip c 7 d ∧ c.reg 7 = d ∧
      (∀ ch, c.channel ch =
        { s.chip.channel ch with
          toneDisabled := d.toNat.testBit ch.index, noiseDisabled := d.toNat.testBit (3 + ch.index) }) ∧
      c.noise = s.chip.noise ∧ c.env = s.chip.env

/-- R58: a WR to register 8+i sets channel i's amplitude and envelope mode, and nothing else but the register. -/
def Obligations.WrToLevelRegisterSetsAmplitudeAndMode : Prop :=
  ∀ (s : State) (d : Byte) (ch : Channel), s.initialized = true → s.chip.latch.toNat = 8 + ch.index →
    ∃ c : Chip, exec (.wr d) s = .next { s with chip := c } ∧ StoresMasked s.chip c s.chip.latch d ∧
      c.channel ch =
        { s.chip.channel ch with amplitude := BitVec.ofNat 4 (d.toNat % 16), envMode := d.toNat.testBit 4 } ∧
      (∀ j, j ≠ ch → c.channel j = s.chip.channel j) ∧ c.noise = s.chip.noise ∧ c.env = s.chip.env

/-- R59: a WR to register 11 or 12 recomputes the envelope period from both stored bytes, with no clamp, and leaves the
rest of the envelope alone. -/
def Obligations.WrToRegisterElevenOrTwelveSetsTheEnvelopePeriod : Prop :=
  ∀ (s : State) (d : Byte), s.initialized = true → (s.chip.latch = 11 ∨ s.chip.latch = 12) →
    ∃ c : Chip, exec (.wr d) s = .next { s with chip := c } ∧ StoresMasked s.chip c s.chip.latch d ∧
      c.env.period.toNat = (c.reg 11).toNat ||| ((c.reg 12).toNat <<< 8) ∧
      c.env = { s.chip.env with period := c.env.period } ∧
      (∀ ch, c.channel ch = s.chip.channel ch) ∧ c.noise = s.chip.noise

/-- R60: every WR to register 13 restarts the envelope from the new shape, and leaves its period alone. -/
def Obligations.WrToRegisterThirteenRestartsTheEnvelope : Prop :=
  ∀ (s : State) (d : Byte), s.initialized = true → s.chip.latch = 13 →
    ∃ c : Chip, exec (.wr d) s = .next { s with chip := c } ∧ StoresMasked s.chip c 13 d ∧
      c.env = { period := s.chip.env.period, counter := 0, segment := false, step := 0,
                volume := if d.toNat.testBit 2 then 0 else 15 } ∧
      (∀ ch, c.channel ch = s.chip.channel ch) ∧ c.noise = s.chip.noise

/-- R61: a WR to register 14 or 15 stores the masked value and changes nothing else. -/
def Obligations.WrToRegisterFourteenOrFifteenStoresOnly : Prop :=
  ∀ (s : State) (d : Byte), s.initialized = true → (s.chip.latch = 14 ∨ s.chip.latch = 15) →
    ∃ c : Chip, exec (.wr d) s = .next { s with chip := c } ∧ StoresMasked s.chip c s.chip.latch d ∧
      (∀ ch, c.channel ch = s.chip.channel ch) ∧ c.noise = s.chip.noise ∧ c.env = s.chip.env

/-- R62: WIO. -/
def Obligations.WioStoresTheIoRegister : Prop :=
  ∀ (s : State) (d : Byte),
    (s.initialized = true → ∃ c : Chip, exec (.wio d) s = .next { s with chip := c } ∧ StoresMasked s.chip c 14 d ∧
      c.reg 14 = d ∧ (∀ ch, c.channel ch = s.chip.channel ch) ∧ c.noise = s.chip.noise ∧ c.env = s.chip.env) ∧
    (s.initialized = false → ∃ f, exec (.wio d) s = .next { s with fault := some f } ∧ f.code = 5)

/-- R63: no register write changes the running state of a tone or noise generator, and only a WR to register 13 changes
the envelope's. -/
def Obligations.OnlyShapeWritesTouchTheRunningState : Prop :=
  ∀ (i : Instr) (d : Byte) (s : State), i = .wr d ∨ i = .wio d → s.initialized = true →
    ∃ t, exec i s = .next t ∧ SameToneNoiseRunning s.chip t.chip ∧
      (i = .wio d ∨ s.chip.latch ≠ 13 → SameEnvRunning s.chip t.chip)

/-! ## The cycle -/

/-- R64: the tone step of each channel in a CYC. -/
def Obligations.CycStepsEachToneGenerator : Prop :=
  ∀ s : State, s.initialized = true → s.RoomFor 1 → ∃ t, exec .cyc s = .next t ∧
    ∀ ch,
      ((s.chip.channel ch).period.toNat ≤ (s.chip.channel ch).counter.toNat + 1 →
        t.chip.channel ch = { s.chip.channel ch with counter := 0, sign := !(s.chip.channel ch).sign }) ∧
      ((s.chip.channel ch).counter.toNat + 1 < (s.chip.channel ch).period.toNat →
        (t.chip.channel ch).counter.toNat = (s.chip.channel ch).counter.toNat + 1 ∧
        t.chip.channel ch = { s.chip.channel ch with counter := (t.chip.channel ch).counter })

/-- R70, R71: the noise step of a CYC, and the bits of the LFSR after an advance. -/
def Obligations.CycStepsTheNoiseGenerator : Prop :=
  ∀ s : State, s.initialized = true → s.RoomFor 1 → ∃ t, exec .cyc s = .next t ∧
    t.chip.noise.period = s.chip.noise.period ∧
    (2 * s.chip.noise.period.toNat ≤ s.chip.noise.counter.toNat + 1 →
      t.chip.noise.counter = 0 ∧
      (∀ k, k < 16 → t.chip.noise.shift.getLsbD k = s.chip.noise.shift.getLsbD (k + 1)) ∧
      t.chip.noise.shift.getLsbD 16 = Bool.xor (s.chip.noise.shift.getLsbD 0) (s.chip.noise.shift.getLsbD 3)) ∧
    (s.chip.noise.counter.toNat + 1 < 2 * s.chip.noise.period.toNat →
      t.chip.noise.counter.toNat = s.chip.noise.counter.toNat + 1 ∧ t.chip.noise.shift = s.chip.noise.shift)

/-- R78, R79, with R77's reset volume: the envelope step of a CYC. -/
def Obligations.CycStepsTheEnvelope : Prop :=
  ∀ s : State, s.initialized = true → s.RoomFor 1 → ∃ t, exec .cyc s = .next t ∧
    (let e := s.chip.env
     let shape := (s.chip.reg 13).toNat
     let e' := t.chip.env
     e'.period = e.period ∧
     (e.counter.toNat + 1 < 2 * e.period.toNat →
       e'.counter.toNat = e.counter.toNat + 1 ∧ e'.segment = e.segment ∧ e'.step = e.step ∧ e'.volume = e.volume) ∧
     (2 * e.period.toNat ≤ e.counter.toNat + 1 →
       e'.counter = 0 ∧
       (e.step.toNat < 15 →
         e'.step.toNat = e.step.toNat + 1 ∧ e'.segment = e.segment ∧
         e'.volume.toNat = movedVolume shape e.segment e.step.toNat e.volume.toNat) ∧
       (e.step.toNat = 15 →
         e'.step = 0 ∧ e'.segment = (if shape &&& 9 = 8 then !e.segment else true) ∧
         e'.volume.toNat = resetVolume shape e'.segment)))

/-- R85, R86, R87, summed as R84's pseudocode does: the sample of a CYC is the exact sum of the gated channels' table
entries, read after the five generator steps. That it lies in 0 to 12288 follows from the table. -/
def Obligations.CycSampleIsTheGatedSum : Prop :=
  ∀ s : State, s.initialized = true → s.RoomFor 1 → ∃ (t : State) (v : Sample), exec .cyc s = .next t ∧
    t.emitted = s.emitted ++ [v] ∧
    v.toInt = (channelTerm t.chip .A + channelTerm t.chip .B + channelTerm t.chip .C : Nat) ∧
    0 ≤ v.toInt ∧ v.toInt ≤ 12288

/-- R89, R90, and CYC's frame: the sample is written at the cursor and nowhere else, the cursor advances by one, the
count 1 is returned, and no register, latch, period, amplitude or disable flag changes. -/
def Obligations.CycAppendsOneSample : Prop :=
  ∀ s : State, s.initialized = true → s.RoomFor 1 → ∃ (t : State) (v : Sample), exec .cyc s = .next t ∧
    Memory.read t.written s.cursor = some v ∧
    (∀ a, a ≠ s.cursor → Memory.read t.written a = Memory.read s.written a) ∧
    t.emitted = s.emitted ++ [v] ∧ t.outputs = s.outputs ++ [.count 1] ∧
    t = { s with chip := t.chip, written := t.written, cursor := s.cursor + 1, emitted := t.emitted,
                 outputs := t.outputs } ∧
    t.chip.latch = s.chip.latch ∧ (∀ r, t.chip.reg r = s.chip.reg r) ∧
    t.chip.noise.period = s.chip.noise.period ∧ t.chip.env.period = s.chip.env.period ∧
    (∀ ch, t.chip.channel ch =
      { s.chip.channel ch with counter := (t.chip.channel ch).counter, sign := (t.chip.channel ch).sign })

/-- R65, an inference the spec draws from R64: with a constant period P (0 counted as 1) a channel's phase flips once every P cycles, its counter running from
0 to P - 1, for as long as the buffer has room. -/
def Obligations.ToneIsASquareWave : Prop :=
  ∀ (s : State) (n : Nat) (ch : Channel), s.Running → s.RoomFor n → (s.chip.channel ch).counter = 0 →
    (let p := max 1 (s.chip.channel ch).period.toNat
     let t := execAll (List.replicate n .cyc) s
     t.Running ∧ t.cursor = s.cursor + n ∧
     (t.chip.channel ch).period = (s.chip.channel ch).period ∧
     (t.chip.channel ch).counter.toNat = n % p ∧
     (t.chip.channel ch).sign = Bool.xor (s.chip.channel ch).sign (decide (n / p % 2 = 1)))

/-- R74, an inference the spec draws from R70: from counter 0 the LFSR advances once every `2 * noise_period` cycles, and on every cycle with period 0. -/
def Obligations.NoiseAdvancesEveryTwoPeriods : Prop :=
  ∀ (s : State) (n : Nat), s.Running → s.RoomFor n → s.chip.noise.counter = 0 →
    (let t := execAll (List.replicate n .cyc) s
     let period := s.chip.noise.period.toNat
     t.chip.noise.period = s.chip.noise.period ∧
     t.chip.noise.counter.toNat = dividerCount period n ∧
     t.chip.noise.shift = lfsrNext^[rollovers period n] s.chip.noise.shift)

/-- R73, an inference the spec draws from R71: the LFSR never steps from a non-zero value to 0, 0 is a fixed point no command reaches, and from the seed 1 it
passes through every non-zero 17-bit value with period 131071. -/
def Obligations.LfsrHasFullPeriod : Prop :=
  (∀ x : BitVec 17, x ≠ 0 → lfsrNext x ≠ 0) ∧ lfsrNext 0 = 0 ∧
  (∀ (i : Instr) (s t : State), (s.initialized = true → s.chip.noise.shift ≠ 0) → exec i s = .next t →
    t.initialized = true → t.chip.noise.shift ≠ 0) ∧
  (∀ r : Record, r.noiseShift = 0 → ∀ s : State, ∃ f, exec (.load r) s = .next { s with fault := some f } ∧
    f.code = 4) ∧
  lfsrNext^[131071] 1 = 1 ∧ (∀ n, 0 < n → n < 131071 → lfsrNext^[n] 1 ≠ 1) ∧
  (∀ x : BitVec 17, x ≠ 0 → ∃ n, n < 131071 ∧ lfsrNext^[n] 1 = x)

/-- R81 and R82, inferences the spec draws from R77 and R79: from a WR of any shape to register 13, with any envelope period E, the segment, the step and the visible
volume after any number of cycles are those of R82's table, one advance every 2E cycles, or every cycle with E = 0. -/
def Obligations.EnvelopeFollowsTheShapeTable : Prop :=
  ∀ (s : State) (d : Byte) (n : Nat), s.Running → s.RoomFor n → s.chip.latch = 13 →
    (let t := execAll (.wr d :: List.replicate n .cyc) s
     let period := s.chip.env.period.toNat
     let k := rollovers period n
     let shape := d.toNat % 16
     t.Running ∧ t.cursor = s.cursor + n ∧
     (t.chip.reg 13).toNat = shape ∧ t.chip.env.period = s.chip.env.period ∧
     t.chip.env.counter.toNat = dividerCount period n ∧
     t.chip.env.step.toNat = k % 16 ∧
     t.chip.env.segment = segmentAfter shape k ∧
     t.chip.env.volume.toNat = volumeAfter shape k)

/-- R112 (1) and (4), R80, inferences the spec draws from R26 and the generator rules: run from INIT with no register written, every sample is 0, and the envelope volume wraps once
from 0 to 15, falls to 2 and settles at 0 in segment 1. -/
def Obligations.ResetStateRunsSilentAndWrapsTheVolumeOnce : Prop :=
  ∀ (s : State) (n : Nat), s.fault = none → s.refusal = none → s.RoomFor n →
    (let t := execAll (.init :: List.replicate n .cyc) s
     t.emitted = s.emitted ++ List.replicate n 0 ∧
     t.chip.env.segment = decide (16 ≤ n) ∧ t.chip.env.step.toNat = n % 16 ∧
     t.chip.env.volume.toNat = if 2 ≤ n ∧ n ≤ 15 then 17 - n else 0)

/-! ## Host control -/

/-- R92: SETBUF. -/
def Obligations.SetbufHandsOverANewBuffer : Prop :=
  ∀ (s : State) (n : Nat), ∃ t, exec (.setbuf n) s = .next t ∧ t = { s with sinkCap := some n, written := t.written } ∧
    (∀ a, Memory.read t.written a = none)

/-- R93: RCUR. -/
def Obligations.RcurRewindsTheCursorAlone : Prop :=
  ∀ s : State, exec .rcur s = .next { s with cursor := 0 }

/-- R94: SAVE copies out every field of the chip record and changes nothing. -/
def Obligations.SaveCopiesEveryField : Prop :=
  ∀ s : State,
    (s.initialized = true → ∃ r : Record, exec .save s = .next { s with outputs := s.outputs ++ [.record r] } ∧
      ChipHolds s.chip r) ∧
    (s.initialized = false → ∃ f, exec .save s = .next { s with fault := some f } ∧ f.code = 5)

/-- R95: LOAD admits exactly the well-formed records, takes every field as given, and changes nothing else. -/
def Obligations.LoadTakesAWellFormedRecordAsGiven : Prop :=
  ∀ (r : Record) (s : State),
    (RecordFits r → ∃ c : Chip, exec (.load r) s = .next { s with chip := c, initialized := true } ∧ ChipHolds c r) ∧
    (¬ RecordFits r → ∃ f, exec (.load r) s = .next { s with fault := some f } ∧ f.code = 4)

/-- R96, an inference the spec draws from R94, R95 and R10: a SAVE followed at once by a LOAD of the saved record leaves the state as it was but for the record in
`outputs`, and every later program gives the same chip state, samples and outputs as with no SAVE and LOAD. The chip's
invariant is that of `SoundIsKept`. -/
def Obligations.SaveThenLoadIsIndistinguishable : Prop :=
  ∀ s : State, s.initialized = true → s.chip.Sound →
    ∃ r : Record, exec .save s = .next { s with outputs := s.outputs ++ [.record r] } ∧
      exec (.load r) { s with outputs := s.outputs ++ [.record r] } =
        .next { s with outputs := s.outputs ++ [.record r] } ∧
      ∀ p : List Instr, ∃ new : List Output,
        (execAll p s).outputs = s.outputs ++ new ∧
        execAll p { s with outputs := s.outputs ++ [.record r] } =
          { execAll p s with outputs := s.outputs ++ [.record r] ++ new }

/-! ## Invariants and whole-machine rules -/

/-- Every step keeps the state's invariant (the model's, written from the ranges the spec says its rules keep): the register masks, an LFSR that is not 0, and a buffer in canonical form
inside its capacity (R10, R73, R23, R89). -/
def Obligations.SoundIsKept : Prop :=
  ∀ s t : State, s.Sound → step s = .next t → t.Sound

/-- The reset state and every launch state meet the invariant. -/
def Obligations.ResetIsSound : Prop :=
  State.reset.Sound ∧ ∀ c : Chip, (State.launch c).Sound

/-- R21, an inference the spec draws from R26, R55 to R61 and R95: after INIT and any commands but LOAD, each cached field is its derivation's projection of the registers, or, for
a tone or noise period, 0 with its registers still 0. -/
def Obligations.DerivedFieldsStayConsistent : Prop :=
  ∀ (p : List Instr) (s : State), s.fault = none → s.refusal = none → (∀ i ∈ p, ∀ r, i ≠ .load r) →
    (execAll (.init :: p) s).chip.consistent

/-- R16, an inference the spec draws from R64, R70 and R78: after INIT and any commands but LOAD, the stored counters are below their largest thresholds. -/
def Obligations.CountersStayInRange : Prop :=
  ∀ (p : List Instr) (s : State), s.fault = none → s.refusal = none → (∀ i ∈ p, ∀ r, i ≠ .load r) →
    (execAll (.init :: p) s).chip.countersInRange

/-- R14: only SEL, INIT and LOAD change the latch, and INIT sets it to 0. -/
def Obligations.OnlySelInitAndLoadMoveTheLatch : Prop :=
  ∀ (i : Instr) (s t : State), exec i s = .next t → t.chip.latch ≠ s.chip.latch →
    (∃ d, i = .sel d ∧ t.chip.latch.toNat = d.toNat) ∨ (i = .init ∧ t.chip.latch = 0) ∨ (∃ r, i = .load r)

/-- R17: what writes each flag. -/
def Obligations.EachFlagHasItsWriters : Prop :=
  ∀ (i : Instr) (s t : State), exec i s = .next t → i ≠ .init → (∀ r, i ≠ .load r) →
    (∀ ch, (t.chip.channel ch).sign ≠ (s.chip.channel ch).sign → i = .cyc) ∧
    (∀ ch, (t.chip.channel ch).toneDisabled ≠ (s.chip.channel ch).toneDisabled ∨
      (t.chip.channel ch).noiseDisabled ≠ (s.chip.channel ch).noiseDisabled →
        ∃ d, i = .wr d ∧ s.chip.latch = 7) ∧
    (∀ ch, (t.chip.channel ch).envMode ≠ (s.chip.channel ch).envMode →
      ∃ d, i = .wr d ∧ s.chip.latch.toNat = 8 + ch.index) ∧
    (t.chip.env.segment ≠ s.chip.env.segment → i = .cyc ∨ ∃ d, i = .wr d ∧ s.chip.latch = 13)

/-- R109, R122: only CYC produces a sample, exactly one, and only CYC moves a tone or noise counter, a phase or the LFSR,
INIT and LOAD apart. -/
def Obligations.OnlyCycAdvancesTheGenerators : Prop :=
  ∀ (i : Instr) (s t : State), exec i s = .next t →
    ((∃ v, i = .cyc ∧ t.emitted = s.emitted ++ [v]) ∨ t.emitted = s.emitted) ∧
    (i ≠ .cyc → i ≠ .init → (∀ r, i ≠ .load r) → SameToneNoiseRunning s.chip t.chip)

/-- Buffers in canonical form that read alike at every index are equal data. -/
def Obligations.EqualBuffersAreEqualData : Prop :=
  ∀ m m' : Memory, Memory.wf m = true → Memory.wf m' = true →
    (∀ i, Memory.read m i = Memory.read m' i) → m = m'

/-- The run of a program's words, one step a word, is the run of its commands: a fault leaves the words behind it
unexecuted, and nothing else differs. The queue of words, and what a mark leaves on it, is the model's (log 5). -/
def Obligations.WordRunRefinesCommandRun : Prop :=
  ∀ (p : List Instr) (s : State), s.pending = [] →
    { runProgram p s with pending := [] } = execAll p s ∧
    ((execAll p s).fault = none → (execAll p s).refusal = none → (runProgram p s).pending = [])

/-- R51: what the pseudo-instructions do when their expansions run from a running state: TONE, NOISEP and ENVP leave
the period they name (0 clamped to 1 for tone and noise), LEVEL the amplitude and mode, RUN n appends n samples. -/
def Obligations.PseudoInstructionsReachTheirRegisters : Prop :=
  ∀ s : State, s.Running →
    (∀ (ch : Channel) (p : BitVec 12), (execAll (AsmCommand.expand (.tone ch p)) s).Running ∧
      ((execAll (AsmCommand.expand (.tone ch p)) s).chip.channel ch).period = if p = 0 then 1 else p) ∧
    (∀ p : BitVec 5, (execAll (AsmCommand.expand (.noisep p)) s).Running ∧
      (execAll (AsmCommand.expand (.noisep p)) s).chip.noise.period = if p = 0 then 1 else p) ∧
    (∀ p : BitVec 16, (execAll (AsmCommand.expand (.envp p)) s).Running ∧
      (execAll (AsmCommand.expand (.envp p)) s).chip.env.period = p) ∧
    (∀ (ch : Channel) (v : Byte), (execAll (AsmCommand.expand (.level ch v)) s).Running ∧
      ((execAll (AsmCommand.expand (.level ch v)) s).chip.channel ch).amplitude.toNat = v.toNat % 16 ∧
      ((execAll (AsmCommand.expand (.level ch v)) s).chip.channel ch).envMode = v.toNat.testBit 4) ∧
    (∀ n, s.RoomFor n → (execAll (AsmCommand.expand (.run n)) s).Running ∧
      (execAll (AsmCommand.expand (.run n)) s).emitted.length = s.emitted.length + n)

/-- R43: a command to one instance reads and writes only that instance. The list of instances is the model's (log 18). -/
def Obligations.InstancesAreIndependent : Prop :=
  ∀ (k : Nat) (chips : Chips) (s : State), chips[k]? = some s →
    (∀ t, step s = .next t → ∃ chips', stepInstance k chips = .next chips' ∧ chips'.length = chips.length ∧
      chips'[k]? = some t ∧ ∀ j, j ≠ k → chips'[j]? = chips[j]?) ∧
    (∀ f, step s = .fault f → stepInstance k chips = .fault f) ∧
    (∀ r, step s = .refused r → stepInstance k chips = .refused r)

/-- R21 as an invariant of the step: every command but LOAD keeps the consistency of the cached fields with the
registers, from every state that has it, and the reset chip has it. -/
def Obligations.EveryCommandButLoadKeepsConsistency : Prop :=
  Chip.reset.consistent ∧
  ∀ (i : Instr) (s t : State), (∀ r, i ≠ .load r) → s.chip.consistent → exec i s = .next t → t.chip.consistent

/-- R16 as an invariant of the step: every command but LOAD keeps the counters in their ranges, from every state whose
counters are, and the reset chip's are. -/
def Obligations.EveryCommandButLoadKeepsCounterRanges : Prop :=
  Chip.reset.countersInRange ∧
  ∀ (i : Instr) (s t : State), (∀ r, i ≠ .load r) → s.chip.countersInRange → exec i s = .next t →
    t.chip.countersInRange
end

