-- ==== Sys2Proof/Config.lean ====
section
/-! DEFINITION. The parameters of R5: the sizes the spec fixes, and the two it leaves OPEN. The spec's tables and
literals stand in Machine/Tables.lean, the widths in the types of Machine/State.lean. -/

namespace Sys2Proof.Config

/-- `N_CH`: three tone channels, A, B and C (R5). -/
def nCh : Nat := 3

/-- `N_REG`: sixteen registers (R5). -/
def nReg : Nat := 16

/-- `ENV_STEPS`: steps of one envelope segment (R5). -/
def envSteps : Nat := 16

/-- `ENV_SEGMENTS`: segments of one envelope cycle (R5). -/
def envSegments : Nat := 2

/-- The two orders in which the host's memory may hold the two bytes of a sample (R32). -/
inductive ByteOrder where
  | lowFirst
  | highFirst
deriving DecidableEq, Repr, Inhabited

/-- `CHIP_CLOCK_HZ`, OPEN: "No rule depends on it" (R5, R122, D17). No definition of the model reads it (log 14). -/
opaque chipClockHz : Nat

/-- `SINK_BYTE_ORDER`, OPEN: "No rule depends on it" (R32, D18). No definition of the model reads it (log 14). -/
opaque sinkByteOrder : ByteOrder

end Sys2Proof.Config
end

