-- ==== Sys2Proof/Laws/State.lean ====
section
/-! SUPPORT. One lemma per field per update of the state and of the chip record, each true by rfl, so that no later proof
unfolds an update. -/

namespace Sys2Proof.Machine

open Sys2Proof

@[simp] theorem State.setChip_chip (s : State) (c : Chip) : (s.setChip c).chip = c := rfl
@[simp] theorem State.setChip_initialized (s : State) (c : Chip) : (s.setChip c).initialized = s.initialized := rfl
@[simp] theorem State.setChip_fault (s : State) (c : Chip) : (s.setChip c).fault = s.fault := rfl
@[simp] theorem State.setChip_refusal (s : State) (c : Chip) : (s.setChip c).refusal = s.refusal := rfl
@[simp] theorem State.setChip_sinkCap (s : State) (c : Chip) : (s.setChip c).sinkCap = s.sinkCap := rfl
@[simp] theorem State.setChip_cursor (s : State) (c : Chip) : (s.setChip c).cursor = s.cursor := rfl
@[simp] theorem State.setChip_written (s : State) (c : Chip) : (s.setChip c).written = s.written := rfl
@[simp] theorem State.setChip_emitted (s : State) (c : Chip) : (s.setChip c).emitted = s.emitted := rfl
@[simp] theorem State.setChip_outputs (s : State) (c : Chip) : (s.setChip c).outputs = s.outputs := rfl
@[simp] theorem State.setChip_pending (s : State) (c : Chip) : (s.setChip c).pending = s.pending := rfl

@[simp] theorem State.startChip_chip (s : State) (c : Chip) : (s.startChip c).chip = c := rfl
@[simp] theorem State.startChip_initialized (s : State) (c : Chip) : (s.startChip c).initialized = true := rfl
@[simp] theorem State.startChip_fault (s : State) (c : Chip) : (s.startChip c).fault = s.fault := rfl
@[simp] theorem State.startChip_refusal (s : State) (c : Chip) : (s.startChip c).refusal = s.refusal := rfl
@[simp] theorem State.startChip_sinkCap (s : State) (c : Chip) : (s.startChip c).sinkCap = s.sinkCap := rfl
@[simp] theorem State.startChip_cursor (s : State) (c : Chip) : (s.startChip c).cursor = s.cursor := rfl
@[simp] theorem State.startChip_written (s : State) (c : Chip) : (s.startChip c).written = s.written := rfl
@[simp] theorem State.startChip_emitted (s : State) (c : Chip) : (s.startChip c).emitted = s.emitted := rfl
@[simp] theorem State.startChip_outputs (s : State) (c : Chip) : (s.startChip c).outputs = s.outputs := rfl
@[simp] theorem State.startChip_pending (s : State) (c : Chip) : (s.startChip c).pending = s.pending := rfl

@[simp] theorem State.output_chip (s : State) (v : Output) : (s.output v).chip = s.chip := rfl
@[simp] theorem State.output_initialized (s : State) (v : Output) : (s.output v).initialized = s.initialized := rfl
@[simp] theorem State.output_fault (s : State) (v : Output) : (s.output v).fault = s.fault := rfl
@[simp] theorem State.output_refusal (s : State) (v : Output) : (s.output v).refusal = s.refusal := rfl
@[simp] theorem State.output_sinkCap (s : State) (v : Output) : (s.output v).sinkCap = s.sinkCap := rfl
@[simp] theorem State.output_cursor (s : State) (v : Output) : (s.output v).cursor = s.cursor := rfl
@[simp] theorem State.output_written (s : State) (v : Output) : (s.output v).written = s.written := rfl
@[simp] theorem State.output_emitted (s : State) (v : Output) : (s.output v).emitted = s.emitted := rfl
@[simp] theorem State.output_outputs (s : State) (v : Output) : (s.output v).outputs = s.outputs ++ [v] := rfl
@[simp] theorem State.output_pending (s : State) (v : Output) : (s.output v).pending = s.pending := rfl

@[simp] theorem State.sinkAppend_chip (s : State) (v : Sample) : (s.sinkAppend v).chip = s.chip := rfl
@[simp] theorem State.sinkAppend_initialized (s : State) (v : Sample) : (s.sinkAppend v).initialized = s.initialized := rfl
@[simp] theorem State.sinkAppend_fault (s : State) (v : Sample) : (s.sinkAppend v).fault = s.fault := rfl
@[simp] theorem State.sinkAppend_refusal (s : State) (v : Sample) : (s.sinkAppend v).refusal = s.refusal := rfl
@[simp] theorem State.sinkAppend_sinkCap (s : State) (v : Sample) : (s.sinkAppend v).sinkCap = s.sinkCap := rfl
@[simp] theorem State.sinkAppend_cursor (s : State) (v : Sample) : (s.sinkAppend v).cursor = s.cursor + 1 := rfl
@[simp] theorem State.sinkAppend_written (s : State) (v : Sample) : (s.sinkAppend v).written = Memory.write s.written s.cursor v := rfl
@[simp] theorem State.sinkAppend_emitted (s : State) (v : Sample) : (s.sinkAppend v).emitted = s.emitted ++ [v] := rfl
@[simp] theorem State.sinkAppend_outputs (s : State) (v : Sample) : (s.sinkAppend v).outputs = s.outputs := rfl
@[simp] theorem State.sinkAppend_pending (s : State) (v : Sample) : (s.sinkAppend v).pending = s.pending := rfl

@[simp] theorem State.newBuffer_chip (s : State) (n : Nat) : (s.newBuffer n).chip = s.chip := rfl
@[simp] theorem State.newBuffer_initialized (s : State) (n : Nat) : (s.newBuffer n).initialized = s.initialized := rfl
@[simp] theorem State.newBuffer_fault (s : State) (n : Nat) : (s.newBuffer n).fault = s.fault := rfl
@[simp] theorem State.newBuffer_refusal (s : State) (n : Nat) : (s.newBuffer n).refusal = s.refusal := rfl
@[simp] theorem State.newBuffer_sinkCap (s : State) (n : Nat) : (s.newBuffer n).sinkCap = some n := rfl
@[simp] theorem State.newBuffer_cursor (s : State) (n : Nat) : (s.newBuffer n).cursor = s.cursor := rfl
@[simp] theorem State.newBuffer_written (s : State) (n : Nat) : (s.newBuffer n).written = [] := rfl
@[simp] theorem State.newBuffer_emitted (s : State) (n : Nat) : (s.newBuffer n).emitted = s.emitted := rfl
@[simp] theorem State.newBuffer_outputs (s : State) (n : Nat) : (s.newBuffer n).outputs = s.outputs := rfl
@[simp] theorem State.newBuffer_pending (s : State) (n : Nat) : (s.newBuffer n).pending = s.pending := rfl

@[simp] theorem State.rewind_chip (s : State) : (s.rewind).chip = s.chip := rfl
@[simp] theorem State.rewind_initialized (s : State) : (s.rewind).initialized = s.initialized := rfl
@[simp] theorem State.rewind_fault (s : State) : (s.rewind).fault = s.fault := rfl
@[simp] theorem State.rewind_refusal (s : State) : (s.rewind).refusal = s.refusal := rfl
@[simp] theorem State.rewind_sinkCap (s : State) : (s.rewind).sinkCap = s.sinkCap := rfl
@[simp] theorem State.rewind_cursor (s : State) : (s.rewind).cursor = 0 := rfl
@[simp] theorem State.rewind_written (s : State) : (s.rewind).written = s.written := rfl
@[simp] theorem State.rewind_emitted (s : State) : (s.rewind).emitted = s.emitted := rfl
@[simp] theorem State.rewind_outputs (s : State) : (s.rewind).outputs = s.outputs := rfl
@[simp] theorem State.rewind_pending (s : State) : (s.rewind).pending = s.pending := rfl

@[simp] theorem State.markRefused_chip (s : State) (r : Refusal) : (s.markRefused r).chip = s.chip := rfl
@[simp] theorem State.markRefused_initialized (s : State) (r : Refusal) : (s.markRefused r).initialized = s.initialized := rfl
@[simp] theorem State.markRefused_fault (s : State) (r : Refusal) : (s.markRefused r).fault = s.fault := rfl
@[simp] theorem State.markRefused_refusal (s : State) (r : Refusal) : (s.markRefused r).refusal = some r := rfl
@[simp] theorem State.markRefused_sinkCap (s : State) (r : Refusal) : (s.markRefused r).sinkCap = s.sinkCap := rfl
@[simp] theorem State.markRefused_cursor (s : State) (r : Refusal) : (s.markRefused r).cursor = s.cursor := rfl
@[simp] theorem State.markRefused_written (s : State) (r : Refusal) : (s.markRefused r).written = s.written := rfl
@[simp] theorem State.markRefused_emitted (s : State) (r : Refusal) : (s.markRefused r).emitted = s.emitted := rfl
@[simp] theorem State.markRefused_outputs (s : State) (r : Refusal) : (s.markRefused r).outputs = s.outputs := rfl
@[simp] theorem State.markRefused_pending (s : State) (r : Refusal) : (s.markRefused r).pending = s.pending := rfl

@[simp] theorem State.markFault_chip (s : State) (f : Fault) : (s.markFault f).chip = s.chip := rfl
@[simp] theorem State.markFault_initialized (s : State) (f : Fault) : (s.markFault f).initialized = s.initialized := rfl
@[simp] theorem State.markFault_fault (s : State) (f : Fault) : (s.markFault f).fault = some f := rfl
@[simp] theorem State.markFault_refusal (s : State) (f : Fault) : (s.markFault f).refusal = s.refusal := rfl
@[simp] theorem State.markFault_sinkCap (s : State) (f : Fault) : (s.markFault f).sinkCap = s.sinkCap := rfl
@[simp] theorem State.markFault_cursor (s : State) (f : Fault) : (s.markFault f).cursor = s.cursor := rfl
@[simp] theorem State.markFault_written (s : State) (f : Fault) : (s.markFault f).written = s.written := rfl
@[simp] theorem State.markFault_emitted (s : State) (f : Fault) : (s.markFault f).emitted = s.emitted := rfl
@[simp] theorem State.markFault_outputs (s : State) (f : Fault) : (s.markFault f).outputs = s.outputs := rfl
@[simp] theorem State.markFault_pending (s : State) (f : Fault) : (s.markFault f).pending = s.pending := rfl

@[simp] theorem State.setPending_chip (s : State) (q : List HostCommand) : (s.setPending q).chip = s.chip := rfl
@[simp] theorem State.setPending_initialized (s : State) (q : List HostCommand) : (s.setPending q).initialized = s.initialized := rfl
@[simp] theorem State.setPending_fault (s : State) (q : List HostCommand) : (s.setPending q).fault = s.fault := rfl
@[simp] theorem State.setPending_refusal (s : State) (q : List HostCommand) : (s.setPending q).refusal = s.refusal := rfl
@[simp] theorem State.setPending_sinkCap (s : State) (q : List HostCommand) : (s.setPending q).sinkCap = s.sinkCap := rfl
@[simp] theorem State.setPending_cursor (s : State) (q : List HostCommand) : (s.setPending q).cursor = s.cursor := rfl
@[simp] theorem State.setPending_written (s : State) (q : List HostCommand) : (s.setPending q).written = s.written := rfl
@[simp] theorem State.setPending_emitted (s : State) (q : List HostCommand) : (s.setPending q).emitted = s.emitted := rfl
@[simp] theorem State.setPending_outputs (s : State) (q : List HostCommand) : (s.setPending q).outputs = s.outputs := rfl
@[simp] theorem State.setPending_pending (s : State) (q : List HostCommand) : (s.setPending q).pending = q := rfl

@[simp] theorem State.present_chip (s : State) (c : HostCommand) : (s.present c).chip = s.chip := rfl
@[simp] theorem State.present_initialized (s : State) (c : HostCommand) : (s.present c).initialized = s.initialized := rfl
@[simp] theorem State.present_fault (s : State) (c : HostCommand) : (s.present c).fault = s.fault := rfl
@[simp] theorem State.present_refusal (s : State) (c : HostCommand) : (s.present c).refusal = s.refusal := rfl
@[simp] theorem State.present_sinkCap (s : State) (c : HostCommand) : (s.present c).sinkCap = s.sinkCap := rfl
@[simp] theorem State.present_cursor (s : State) (c : HostCommand) : (s.present c).cursor = s.cursor := rfl
@[simp] theorem State.present_written (s : State) (c : HostCommand) : (s.present c).written = s.written := rfl
@[simp] theorem State.present_emitted (s : State) (c : HostCommand) : (s.present c).emitted = s.emitted := rfl
@[simp] theorem State.present_outputs (s : State) (c : HostCommand) : (s.present c).outputs = s.outputs := rfl
@[simp] theorem State.present_pending (s : State) (c : HostCommand) : (s.present c).pending = c :: s.pending := rfl

@[simp] theorem Chip.setLatch_regs (c : Chip) (r : RegIndex) : (c.setLatch r).regs = c.regs := rfl
@[simp] theorem Chip.setLatch_latch (c : Chip) (r : RegIndex) : (c.setLatch r).latch = r := rfl
@[simp] theorem Chip.setLatch_chA (c : Chip) (r : RegIndex) : (c.setLatch r).chA = c.chA := rfl
@[simp] theorem Chip.setLatch_chB (c : Chip) (r : RegIndex) : (c.setLatch r).chB = c.chB := rfl
@[simp] theorem Chip.setLatch_chC (c : Chip) (r : RegIndex) : (c.setLatch r).chC = c.chC := rfl
@[simp] theorem Chip.setLatch_noise (c : Chip) (r : RegIndex) : (c.setLatch r).noise = c.noise := rfl
@[simp] theorem Chip.setLatch_env (c : Chip) (r : RegIndex) : (c.setLatch r).env = c.env := rfl

@[simp] theorem Chip.store_regs (c : Chip) (r : RegIndex) (d : Byte) : (c.store r d).regs = c.regs.set r.toNat (d &&& regMask r) r.isLt := rfl
@[simp] theorem Chip.store_latch (c : Chip) (r : RegIndex) (d : Byte) : (c.store r d).latch = c.latch := rfl
@[simp] theorem Chip.store_chA (c : Chip) (r : RegIndex) (d : Byte) : (c.store r d).chA = c.chA := rfl
@[simp] theorem Chip.store_chB (c : Chip) (r : RegIndex) (d : Byte) : (c.store r d).chB = c.chB := rfl
@[simp] theorem Chip.store_chC (c : Chip) (r : RegIndex) (d : Byte) : (c.store r d).chC = c.chC := rfl
@[simp] theorem Chip.store_noise (c : Chip) (r : RegIndex) (d : Byte) : (c.store r d).noise = c.noise := rfl
@[simp] theorem Chip.store_env (c : Chip) (r : RegIndex) (d : Byte) : (c.store r d).env = c.env := rfl

@[simp] theorem Chip.setChannel_A_regs (c : Chip) (t : ToneChannel) : (c.setChannel .A t).regs = c.regs := rfl
@[simp] theorem Chip.setChannel_A_latch (c : Chip) (t : ToneChannel) : (c.setChannel .A t).latch = c.latch := rfl
@[simp] theorem Chip.setChannel_A_chA (c : Chip) (t : ToneChannel) : (c.setChannel .A t).chA = t := rfl
@[simp] theorem Chip.setChannel_A_chB (c : Chip) (t : ToneChannel) : (c.setChannel .A t).chB = c.chB := rfl
@[simp] theorem Chip.setChannel_A_chC (c : Chip) (t : ToneChannel) : (c.setChannel .A t).chC = c.chC := rfl
@[simp] theorem Chip.setChannel_A_noise (c : Chip) (t : ToneChannel) : (c.setChannel .A t).noise = c.noise := rfl
@[simp] theorem Chip.setChannel_A_env (c : Chip) (t : ToneChannel) : (c.setChannel .A t).env = c.env := rfl

@[simp] theorem Chip.setChannel_B_regs (c : Chip) (t : ToneChannel) : (c.setChannel .B t).regs = c.regs := rfl
@[simp] theorem Chip.setChannel_B_latch (c : Chip) (t : ToneChannel) : (c.setChannel .B t).latch = c.latch := rfl
@[simp] theorem Chip.setChannel_B_chA (c : Chip) (t : ToneChannel) : (c.setChannel .B t).chA = c.chA := rfl
@[simp] theorem Chip.setChannel_B_chB (c : Chip) (t : ToneChannel) : (c.setChannel .B t).chB = t := rfl
@[simp] theorem Chip.setChannel_B_chC (c : Chip) (t : ToneChannel) : (c.setChannel .B t).chC = c.chC := rfl
@[simp] theorem Chip.setChannel_B_noise (c : Chip) (t : ToneChannel) : (c.setChannel .B t).noise = c.noise := rfl
@[simp] theorem Chip.setChannel_B_env (c : Chip) (t : ToneChannel) : (c.setChannel .B t).env = c.env := rfl

@[simp] theorem Chip.setChannel_C_regs (c : Chip) (t : ToneChannel) : (c.setChannel .C t).regs = c.regs := rfl
@[simp] theorem Chip.setChannel_C_latch (c : Chip) (t : ToneChannel) : (c.setChannel .C t).latch = c.latch := rfl
@[simp] theorem Chip.setChannel_C_chA (c : Chip) (t : ToneChannel) : (c.setChannel .C t).chA = c.chA := rfl
@[simp] theorem Chip.setChannel_C_chB (c : Chip) (t : ToneChannel) : (c.setChannel .C t).chB = c.chB := rfl
@[simp] theorem Chip.setChannel_C_chC (c : Chip) (t : ToneChannel) : (c.setChannel .C t).chC = t := rfl
@[simp] theorem Chip.setChannel_C_noise (c : Chip) (t : ToneChannel) : (c.setChannel .C t).noise = c.noise := rfl
@[simp] theorem Chip.setChannel_C_env (c : Chip) (t : ToneChannel) : (c.setChannel .C t).env = c.env := rfl

@[simp] theorem Chip.mapChannels_regs (c : Chip) (f : Channel → ToneChannel → ToneChannel) : (c.mapChannels f).regs = c.regs := rfl
@[simp] theorem Chip.mapChannels_latch (c : Chip) (f : Channel → ToneChannel → ToneChannel) : (c.mapChannels f).latch = c.latch := rfl
@[simp] theorem Chip.mapChannels_chA (c : Chip) (f : Channel → ToneChannel → ToneChannel) : (c.mapChannels f).chA = f .A c.chA := rfl
@[simp] theorem Chip.mapChannels_chB (c : Chip) (f : Channel → ToneChannel → ToneChannel) : (c.mapChannels f).chB = f .B c.chB := rfl
@[simp] theorem Chip.mapChannels_chC (c : Chip) (f : Channel → ToneChannel → ToneChannel) : (c.mapChannels f).chC = f .C c.chC := rfl
@[simp] theorem Chip.mapChannels_noise (c : Chip) (f : Channel → ToneChannel → ToneChannel) : (c.mapChannels f).noise = c.noise := rfl
@[simp] theorem Chip.mapChannels_env (c : Chip) (f : Channel → ToneChannel → ToneChannel) : (c.mapChannels f).env = c.env := rfl

@[simp] theorem Chip.advance_regs (c : Chip)  : (c.advance).regs = c.regs := rfl
@[simp] theorem Chip.advance_latch (c : Chip)  : (c.advance).latch = c.latch := rfl
@[simp] theorem Chip.advance_chA (c : Chip)  : (c.advance).chA = toneStep c.chA := rfl
@[simp] theorem Chip.advance_chB (c : Chip)  : (c.advance).chB = toneStep c.chB := rfl
@[simp] theorem Chip.advance_chC (c : Chip)  : (c.advance).chC = toneStep c.chC := rfl
@[simp] theorem Chip.advance_noise (c : Chip)  : (c.advance).noise = noiseStep c.noise := rfl
@[simp] theorem Chip.advance_env (c : Chip)  : (c.advance).env = envStep c.shape c.env := rfl

@[simp] theorem Chip.deriveNoise_regs (c : Chip)  : (deriveNoise c).regs = c.regs := rfl
@[simp] theorem Chip.deriveNoise_latch (c : Chip)  : (deriveNoise c).latch = c.latch := rfl
@[simp] theorem Chip.deriveNoise_chA (c : Chip)  : (deriveNoise c).chA = c.chA := rfl
@[simp] theorem Chip.deriveNoise_chB (c : Chip)  : (deriveNoise c).chB = c.chB := rfl
@[simp] theorem Chip.deriveNoise_chC (c : Chip)  : (deriveNoise c).chC = c.chC := rfl
@[simp] theorem Chip.deriveNoise_noise (c : Chip)  : (deriveNoise c).noise = { c.noise with period := noisePeriodOf (c.reg 6) } := rfl
@[simp] theorem Chip.deriveNoise_env (c : Chip)  : (deriveNoise c).env = c.env := rfl

@[simp] theorem Chip.deriveEnvPeriod_regs (c : Chip)  : (deriveEnvPeriod c).regs = c.regs := rfl
@[simp] theorem Chip.deriveEnvPeriod_latch (c : Chip)  : (deriveEnvPeriod c).latch = c.latch := rfl
@[simp] theorem Chip.deriveEnvPeriod_chA (c : Chip)  : (deriveEnvPeriod c).chA = c.chA := rfl
@[simp] theorem Chip.deriveEnvPeriod_chB (c : Chip)  : (deriveEnvPeriod c).chB = c.chB := rfl
@[simp] theorem Chip.deriveEnvPeriod_chC (c : Chip)  : (deriveEnvPeriod c).chC = c.chC := rfl
@[simp] theorem Chip.deriveEnvPeriod_noise (c : Chip)  : (deriveEnvPeriod c).noise = c.noise := rfl
@[simp] theorem Chip.deriveEnvPeriod_env (c : Chip)  : (deriveEnvPeriod c).env = { c.env with period := envPeriodOf (c.reg 11) (c.reg 12) } := rfl

@[simp] theorem Chip.restartEnvelope_regs (c : Chip)  : (restartEnvelope c).regs = c.regs := rfl
@[simp] theorem Chip.restartEnvelope_latch (c : Chip)  : (restartEnvelope c).latch = c.latch := rfl
@[simp] theorem Chip.restartEnvelope_chA (c : Chip)  : (restartEnvelope c).chA = c.chA := rfl
@[simp] theorem Chip.restartEnvelope_chB (c : Chip)  : (restartEnvelope c).chB = c.chB := rfl
@[simp] theorem Chip.restartEnvelope_chC (c : Chip)  : (restartEnvelope c).chC = c.chC := rfl
@[simp] theorem Chip.restartEnvelope_noise (c : Chip)  : (restartEnvelope c).noise = c.noise := rfl
@[simp] theorem Chip.restartEnvelope_env (c : Chip)  : (restartEnvelope c).env = envReset c.shape { c.env with counter := 0, segment := false } := rfl

@[simp] theorem Chip.channel_A (c : Chip) : c.channel .A = c.chA := rfl
@[simp] theorem Chip.channel_B (c : Chip) : c.channel .B = c.chB := rfl
@[simp] theorem Chip.channel_C (c : Chip) : c.channel .C = c.chC := rfl

/-- Channel `i` after channel `j` is put in place. -/
@[simp] theorem Chip.setChannel_channel (c : Chip) (i j : Channel) (t : ToneChannel) :
    (c.setChannel j t).channel i = if i = j then t else c.channel i := by
  cases i <;> cases j <;> rfl

@[simp] theorem Chip.setChannel_regs (c : Chip) (j : Channel) (t : ToneChannel) : (c.setChannel j t).regs = c.regs := by
  cases j <;> rfl

@[simp] theorem Chip.setChannel_latch (c : Chip) (j : Channel) (t : ToneChannel) :
    (c.setChannel j t).latch = c.latch := by
  cases j <;> rfl

@[simp] theorem Chip.setChannel_noise (c : Chip) (j : Channel) (t : ToneChannel) :
    (c.setChannel j t).noise = c.noise := by
  cases j <;> rfl

@[simp] theorem Chip.setChannel_env (c : Chip) (j : Channel) (t : ToneChannel) : (c.setChannel j t).env = c.env := by
  cases j <;> rfl

/-- Channel `i` after each channel is changed by its own name. -/
@[simp] theorem Chip.mapChannels_channel (c : Chip) (f : Channel → ToneChannel → ToneChannel) (i : Channel) :
    (c.mapChannels f).channel i = f i (c.channel i) := by
  cases i <;> rfl

/-- Channel `i` after one cycle (R64). -/
@[simp] theorem Chip.advance_channel (c : Chip) (i : Channel) : c.advance.channel i = toneStep (c.channel i) := by
  cases i <;> rfl

/-- A register depends on the register file alone. -/
theorem Chip.reg_congr (c c' : Chip) (h : c'.regs = c.regs) (r : RegIndex) : c'.reg r = c.reg r := by
  simp [Chip.reg, h]

/-- A masked store is read back, and leaves every other register alone (R13, R54). -/
@[simp] theorem Chip.store_reg (c : Chip) (r r' : RegIndex) (d : Byte) :
    (c.store r d).reg r' = if r' = r then d &&& regMask r else c.reg r' := by
  by_cases h : r' = r
  · subst h; simp [Chip.reg]
  · have hn : r.toNat ≠ r'.toNat := fun e => h (BitVec.eq_of_toNat_eq e.symm)
    simp [Chip.reg, h, hn]

@[simp] theorem Chip.store_channel (c : Chip) (r : RegIndex) (d : Byte) (i : Channel) :
    (c.store r d).channel i = c.channel i := by
  cases i <;> rfl

@[simp] theorem Chip.setChannel_reg (c : Chip) (j : Channel) (t : ToneChannel) (r : RegIndex) :
    (c.setChannel j t).reg r = c.reg r := Chip.reg_congr _ _ (by simp) r

@[simp] theorem Chip.mapChannels_reg (c : Chip) (f : Channel → ToneChannel → ToneChannel) (r : RegIndex) :
    (c.mapChannels f).reg r = c.reg r := rfl

@[simp] theorem Chip.setLatch_reg (c : Chip) (r r' : RegIndex) : (c.setLatch r).reg r' = c.reg r' := rfl

@[simp] theorem Chip.setLatch_channel (c : Chip) (r : RegIndex) (i : Channel) :
    (c.setLatch r).channel i = c.channel i := by
  cases i <;> rfl

@[simp] theorem Chip.advance_reg (c : Chip) (r : RegIndex) : c.advance.reg r = c.reg r := rfl

end Sys2Proof.Machine
end

