-- ==== Sys2Proof/Laws/Ops.lean ====
section
/-! SUPPORT. One lemma for each shared operation that says everything it can do, and the small laws of the operand and
flag computations. -/

namespace Sys2Proof.Machine

open Sys2Proof

/-- A raised fault is a next state with the mark, and nothing else changed (R98). -/
theorem raise_eq (f : Fault) (s : State) : raise f s = .next (s.markFault f) := rfl

/-- Before the first INIT or LOAD a guarded command raises F_UNINIT (R111). -/
theorem requireInit_of_uninit (i : Instr) {s : State} (goOn : Result) (h : s.initialized = false) :
    requireInit i s goOn = raise (.uninit i) s := by
  simp [requireInit, h]

/-- Once the chip state holds a value a guarded command goes on. -/
theorem requireInit_of_init (i : Instr) {s : State} (goOn : Result) (h : s.initialized = true) :
    requireInit i s goOn = goOn := by
  simp [requireInit, h]

/-- What a guarded command's next state can be: F_UNINIT's mark, or what the command goes on with. -/
theorem requireInit_next_cases {i : Instr} {s t : State} {goOn : Result} (h : requireInit i s goOn = .next t) :
    (s.initialized = false ∧ t = s.markFault (.uninit i)) ∨ (s.initialized = true ∧ goOn = .next t) := by
  by_cases hi : s.initialized = true
  · exact .inr ⟨hi, by rwa [requireInit_of_init i goOn hi] at h⟩
  · have hf : s.initialized = false := by simpa using hi
    rw [requireInit_of_uninit i goOn hf, raise_eq, Host.Outcome.next.injEq] at h
    exact .inl ⟨hf, h.symm⟩

/-- The index operand names a register exactly up to 15 (R46, R52). -/
theorem indexOperand_of_le {d : Byte} (h : d.toNat ≤ 15) : indexOperand d = some (d.extractLsb' 0 4) := by
  simp [indexOperand, Nat.not_lt.mpr h]

theorem indexOperand_of_gt {d : Byte} (h : 15 < d.toNat) : indexOperand d = none := by
  simp [indexOperand, h]

/-- What CYC answers: one of the three faults, or a cycle (R84). -/
theorem execCyc_cases (s : State) :
    (s.initialized = false ∧ execCyc s = .next (s.markFault (.uninit .cyc))) ∨
    (s.initialized = true ∧ s.sinkCap = none ∧ execCyc s = .next (s.markFault .noBuffer)) ∨
    (∃ cap, s.initialized = true ∧ s.sinkCap = some cap ∧ cap ≤ s.cursor ∧
      execCyc s = .next (s.markFault (.sinkFull s.cursor))) ∨
    (∃ cap, s.initialized = true ∧ s.sinkCap = some cap ∧ s.cursor < cap ∧ execCyc s = .next s.cycle) := by
  by_cases hi : s.initialized = true
  · rcases hc : s.sinkCap with _ | cap
    · exact .inr (.inl ⟨hi, rfl, by simp [execCyc, requireInit_of_init _ _ hi, hc, raise_eq]⟩)
    · by_cases h : cap ≤ s.cursor
      · exact .inr (.inr (.inl ⟨cap, hi, rfl, h, by simp [execCyc, requireInit_of_init _ _ hi, hc, h, raise_eq]⟩))
      · exact .inr (.inr (.inr ⟨cap, hi, rfl, Nat.lt_of_not_le h, by
          simp [execCyc, requireInit_of_init _ _ hi, hc, h]⟩))
  · have hf : s.initialized = false := by simpa using hi
    exact .inl ⟨hf, by rw [execCyc, requireInit_of_uninit _ _ hf, raise_eq]⟩

/-- What SEL answers: one of two faults, or the new latch (R52). -/
theorem execSel_cases (d : Byte) (s : State) :
    (s.initialized = false ∧ execSel d s = .next (s.markFault (.uninit (.sel d)))) ∨
    (s.initialized = true ∧ 15 < d.toNat ∧ execSel d s = .next (s.markFault (.badIndex d))) ∨
    (s.initialized = true ∧ d.toNat ≤ 15 ∧
      execSel d s = .next (s.setChip (s.chip.setLatch (d.extractLsb' 0 4)))) := by
  by_cases hi : s.initialized = true
  · by_cases h : d.toNat ≤ 15
    · exact .inr (.inr ⟨hi, h, by simp [execSel, requireInit_of_init _ _ hi, indexOperand_of_le h]⟩)
    · have h' := Nat.lt_of_not_le h
      exact .inr (.inl ⟨hi, h', by simp [execSel, requireInit_of_init _ _ hi, indexOperand_of_gt h', raise_eq]⟩)
  · have hf : s.initialized = false := by simpa using hi
    exact .inl ⟨hf, by rw [execSel, requireInit_of_uninit _ _ hf, raise_eq]⟩

/-- What LOAD answers: F_BAD_SNAPSHOT's mark, or the record as the chip state (R95). -/
theorem execLoad_cases (r : Record) (s : State) :
    (∃ f, firstBadField r = some f ∧ execLoad r s = .next (s.markFault (.badSnapshot f))) ∨
    (firstBadField r = none ∧ execLoad r s = .next (s.startChip (chipOfRecord r))) := by
  unfold execLoad
  cases h : firstBadField r with
  | some f => exact .inl ⟨f, rfl, rfl⟩
  | none => exact .inr ⟨rfl, rfl⟩

/-- R95's three checks on one field: its width, a register's mask, and `noise_shift` not 0. -/
theorem fieldAdmitted_iff (r : Record) (f : RecordField) :
    fieldAdmitted r f = true ↔ fieldValue r f < 2 ^ f.width ∧
      (∀ i, f = .reg i → maskKept i (fieldValue r f) = true) ∧ (f = .noiseShift → fieldValue r f ≠ 0) := by
  unfold fieldAdmitted
  rw [Bool.and_eq_true, decide_eq_true_iff]
  cases f <;> simp

/-- The field F_BAD_SNAPSHOT records: it is not admitted, and every field before it in the table is (R97, log 8). -/
theorem firstBadField_some {r : Record} {f : RecordField} (h : firstBadField r = some f) :
    fieldAdmitted r f = false ∧
      ∃ earlier later, recordFields = earlier ++ f :: later ∧ ∀ g ∈ earlier, fieldAdmitted r g = true := by
  obtain ⟨hf, earlier, later, he, ha⟩ := List.find?_eq_some_iff_append.mp h
  exact ⟨by simpa using hf, earlier, later, he, by simpa using ha⟩

/-- LOAD admits a record exactly when every field is (R95). -/
theorem firstBadField_none {r : Record} : firstBadField r = none ↔ ∀ f ∈ recordFields, fieldAdmitted r f = true := by
  simp [firstBadField]

/-- Everything a command's next state can be: a fault's mark alone, or the command's own effect. -/
theorem exec_next_cases {i : Instr} {s t : State} (h : exec i s = .next t) :
    (∃ f, t = s.markFault f) ∨
    (∃ d, i = .sel d ∧ s.initialized = true ∧ t = s.setChip (s.chip.setLatch (d.extractLsb' 0 4))) ∨
    (i = .rd ∧ s.initialized = true ∧ t = s.output (.byte s.chip.latched)) ∨
    (∃ d, i = .wr d ∧ s.initialized = true ∧ t = s.setChip (s.chip.writeReg s.chip.latch d)) ∨
    (∃ d, i = .wio d ∧ s.initialized = true ∧ t = s.setChip (s.chip.store ioRegister d)) ∨
    (∃ cap, i = .cyc ∧ s.initialized = true ∧ s.sinkCap = some cap ∧ s.cursor < cap ∧ t = s.cycle) ∨
    (i = .init ∧ t = s.startChip .reset) ∨
    (i = .rcur ∧ t = s.rewind) ∨
    (∃ n, i = .setbuf n ∧ t = s.newBuffer n) ∨
    (i = .save ∧ s.initialized = true ∧ t = s.output (.record (recordOfChip s.chip))) ∨
    (∃ r, i = .load r ∧ firstBadField r = none ∧ t = s.startChip (chipOfRecord r)) := by
  cases i with
  | sel d =>
    rcases execSel_cases d s with ⟨_, e⟩ | ⟨_, _, e⟩ | ⟨hi, _, e⟩ <;>
      rw [exec, e, Host.Outcome.next.injEq] at h <;> subst h <;> simp_all
  | rd =>
    rcases requireInit_next_cases h with ⟨_, rfl⟩ | ⟨hi, e⟩
    · exact .inl ⟨_, rfl⟩
    · simp_all
  | wr d =>
    rcases requireInit_next_cases h with ⟨_, rfl⟩ | ⟨hi, e⟩
    · exact .inl ⟨_, rfl⟩
    · simp_all
  | wio d =>
    rcases requireInit_next_cases h with ⟨_, rfl⟩ | ⟨hi, e⟩
    · exact .inl ⟨_, rfl⟩
    · simp_all
  | cyc =>
    rcases execCyc_cases s with ⟨_, e⟩ | ⟨_, _, e⟩ | ⟨_, _, _, _, e⟩ | ⟨cap, hi, hc, hlt, e⟩ <;>
      rw [exec, e, Host.Outcome.next.injEq] at h <;> subst h
    · exact .inl ⟨_, rfl⟩
    · exact .inl ⟨_, rfl⟩
    · exact .inl ⟨_, rfl⟩
    · exact .inr (.inr (.inr (.inr (.inr (.inl ⟨cap, rfl, hi, hc, hlt, rfl⟩)))))
  | init => simp_all [exec, execInit]
  | rcur => simp_all [exec, execRcur]
  | setbuf n => simp_all [exec, execSetbuf]
  | save =>
    rcases requireInit_next_cases h with ⟨_, rfl⟩ | ⟨hi, e⟩
    · exact .inl ⟨_, rfl⟩
    · simp_all
  | load r =>
    rcases execLoad_cases r s with ⟨f, _, e⟩ | ⟨hw, e⟩ <;>
      rw [exec, e, Host.Outcome.next.injEq] at h <;> subst h <;> simp_all

end Sys2Proof.Machine
end

