-- ==== Sys2Proof/Laws/Memory.lean ====
section
/-! SUPPORT. The laws of the host's buffer: a write is read back and changes no other index, and every operation keeps
the canonical form. -/

namespace Sys2Proof.Machine

open Sys2Proof

/-- A write is read back, and every other index reads as before (R89). -/
@[simp] theorem Memory.read_write (m : Memory) (i j : Nat) (v : Sample) :
    Memory.read (Memory.write m i v) j = if j = i then some v else Memory.read m j := by
  induction m with
  | nil => simp [Memory.write, Memory.read]
  | cons p m ih =>
    obtain ⟨k, w⟩ := p
    simp only [Memory.write]
    split
    · by_cases h : j = i <;> simp [Memory.read, h]
    · split
      · subst_vars
        by_cases h : j = k <;> simp [Memory.read, h]
      · by_cases h : j = k
        · have : k ≠ i := fun e => ‹¬i = k› e.symm
          simp [Memory.read, h, this]
        · simp [Memory.read, h, ih]

/-- A write keeps the entries rising above a bound that its own index is above. -/
theorem Memory.risesFrom_write (m : Memory) (low i : Nat) (v : Sample) (hi : low < i)
    (h : Memory.risesFrom (some low) m = true) : Memory.risesFrom (some low) (Memory.write m i v) = true := by
  induction m generalizing low with
  | nil => simp [Memory.write, Memory.risesFrom, hi]
  | cons p m ih =>
    obtain ⟨k, w⟩ := p
    simp only [Memory.risesFrom, Bool.and_eq_true, decide_eq_true_eq] at h
    simp only [Memory.write]
    split
    · simp_all [Memory.risesFrom]
    · split
      · subst_vars
        simp_all [Memory.risesFrom]
      · have hk : k < i := by omega
        simp [Memory.risesFrom, h.1, ih k hk h.2]

/-- A write keeps the canonical form. -/
theorem Memory.wf_write (m : Memory) (i : Nat) (v : Sample) (h : Memory.wf m = true) :
    Memory.wf (Memory.write m i v) = true := by
  cases m with
  | nil => rfl
  | cons p m =>
    obtain ⟨k, w⟩ := p
    simp only [Memory.wf, Memory.risesFrom] at h
    simp only [Memory.write, Memory.wf]
    split
    · simp_all [Memory.risesFrom]
    · split
      · subst_vars
        simpa [Memory.risesFrom] using h
      · have hk : k < i := by omega
        simp [Memory.risesFrom, Memory.risesFrom_write m k i v hk h]

/-- An empty buffer is in canonical form: the buffer at reset, and after SETBUF (R92). -/
theorem Memory.wf_nil : Memory.wf [] = true := rfl

/-- The sink append keeps the canonical form (R89). -/
theorem State.sinkAppend_wf (s : State) (v : Sample) (h : Memory.wf s.written = true) :
    Memory.wf (s.sinkAppend v).written = true := Memory.wf_write _ _ _ h

/-- A new buffer is in canonical form (R92). -/
theorem State.newBuffer_wf (s : State) (n : Nat) : Memory.wf (s.newBuffer n).written = true := rfl

/-- The buffer at reset is in canonical form. -/
theorem State.reset_written_wf : Memory.wf State.reset.written = true := rfl

end Sys2Proof.Machine
end

