-- ==== Sys2Proof/Laws/PerInstr.lean ====
section
/-! SUPPORT. The statements made of each instruction as syntax: the word its encoding has passes the checks of R48. -/

namespace Sys2Proof.Laws.EncodedWord

open Sys2Proof

/-- The word of an encoded instruction is none of R48's three cases, and its operation code and `z` field are as R44
and R45 say. -/
def Statement (i : Instr) : Prop := HostCommand.wf (encode i) = true ∧ Word.z (encode i).word = 0

/-- The operation code of an assembled word (R44). -/
theorem assemble_op (op : BitVec 4) (d : Byte) : Word.op (Word.assemble op d) = op := by
  ext k hk
  have h1 : ¬ 12 + k < 8 := by omega
  have h2 : ¬ 12 + k < 4 + 8 := by omega
  have h3 : 12 + k - (4 + 8) = k := by omega
  simp only [Word.op, Word.assemble, BitVec.getElem_extractLsb', BitVec.getLsbD_append, h1, h2, h3, if_false]
  exact BitVec.getLsbD_eq_getElem hk

/-- The reserved field of an assembled word (R44). -/
theorem assemble_z (op : BitVec 4) (d : Byte) : Word.z (Word.assemble op d) = 0 := by
  ext k hk
  have h1 : ¬ 8 + k < 8 := by omega
  have h2 : 8 + k < 4 + 8 := by omega
  simp only [Word.z, Word.assemble, BitVec.getElem_extractLsb', BitVec.getLsbD_append, h1, h2, if_false, if_true]
  simp

/-- The data operand of an assembled word (R44, R46). -/
theorem assemble_d (op : BitVec 4) (d : Byte) : Word.d (Word.assemble op d) = d := by
  ext k hk
  have h1 : 0 + k < 8 := by omega
  have h2 : 0 + k < 4 + 8 := by omega
  simp only [Word.d, Word.assemble, BitVec.getElem_extractLsb', BitVec.getLsbD_append, h1, h2, if_true]
  simp [BitVec.getLsbD_eq_getElem hk]

/-- An assembled word with an assigned code is well formed when the code takes data or the data is 0 (R48). -/
theorem assemble_wf (op : BitVec 4) (d : Byte) (ho : (1 ≤ op.toNat && op.toNat ≤ 10) = true)
    (hd : (op == 1 || op == 3 || op == 4 || d == 0) = true) : Word.wf (Word.assemble op d) = true := by
  simp only [Word.wf, Word.opAssigned, Word.zClear, Word.dataAllowed, Word.takesData, assemble_op, assemble_z,
    assemble_d]
  simp only [ho, hd, beq_self_eq_true, Bool.and_self]

theorem sel (d : Byte) : Statement (.sel d) := ⟨assemble_wf 1 d rfl rfl, assemble_z 1 d⟩

theorem rd : Statement .rd := ⟨assemble_wf 2 0 rfl rfl, assemble_z 2 0⟩

theorem wr (d : Byte) : Statement (.wr d) := ⟨assemble_wf 3 d rfl rfl, assemble_z 3 d⟩

theorem wio (d : Byte) : Statement (.wio d) := ⟨assemble_wf 4 d rfl rfl, assemble_z 4 d⟩

theorem cyc : Statement .cyc := ⟨assemble_wf 5 0 rfl rfl, assemble_z 5 0⟩

theorem init : Statement .init := ⟨assemble_wf 6 0 rfl rfl, assemble_z 6 0⟩

theorem rcur : Statement .rcur := ⟨assemble_wf 7 0 rfl rfl, assemble_z 7 0⟩

theorem setbuf (capacity : Nat) : Statement (.setbuf capacity) := ⟨assemble_wf 8 0 rfl rfl, assemble_z 8 0⟩

theorem save : Statement .save := ⟨assemble_wf 9 0 rfl rfl, assemble_z 9 0⟩

theorem load (record : Record) : Statement (.load record) := ⟨assemble_wf 10 0 rfl rfl, assemble_z 10 0⟩

end Sys2Proof.Laws.EncodedWord
end

