-- ==== Sys2Proof/Tests/Slice0.lean ====
section
/-! SUPPORT. The model's own tests: words written out from R45, single steps with the values of 95_test_vectors.md, and
a witness that meets the hypotheses of each statement. -/

open Sys2Proof Sys2Proof.Machine Sys2Proof.Rules

namespace Sys2Proof.Tests

/-- One field of the next state a command answers. -/
def after {α : Type} (field : State → α) : Result → Option α
  | .next s => some (field s)
  | .fault _ => none
  | .refused _ => none

/-- The state after INIT with a buffer of `n` samples: S0 of 95_test_vectors.md for a larger `n`. -/
def roomy (n : Nat) : State := { State.reset with sinkCap := some n }

/-- The same with register `r` latched. -/
def latched (r : RegIndex) : State := (roomy 8).setChip (Chip.reset.setLatch r)

/-- The start of a launch, with a chip state no command reads. -/
def launch : State := State.launch .reset

/-- S0 with one word presented. -/
def presented (w : Word) : State := (roomy 8).present ⟨w, 24, .zeros⟩

/-! ## The checks of R48 refuse ill-formed words -/

theorem test_ill_formed_op_zero : Word.opAssigned 0b0000000000000000 = false := by decide

theorem test_ill_formed_op_eleven : Word.opAssigned 0b1011000000000000 = false := by decide

theorem test_ill_formed_z : Word.zClear 0b0011000100000000 = false := by decide

theorem test_ill_formed_data : Word.dataAllowed 0b0101000000000001 = false := by decide

theorem test_ill_formed_commands :
    HostCommand.wf ⟨0xB000, 0, .zeros⟩ = false ∧ HostCommand.wf ⟨0x3100, 0, .zeros⟩ = false ∧
    HostCommand.wf ⟨0x2001, 0, .zeros⟩ = false := by decide

/-! ## Decoding: op, z and d bit by bit (R44, R45) -/

theorem test_decode_sel : decode ⟨0b0001000000000111, 24, .zeros⟩ = .ok (.sel 7) := by decide

theorem test_decode_rd : decode ⟨0b0010000000000000, 24, .zeros⟩ = .ok .rd := by decide

theorem test_decode_wr : decode ⟨0b0011000010101011, 24, .zeros⟩ = .ok (.wr 0xAB) := by decide

theorem test_decode_wio : decode ⟨0b0100000011111111, 24, .zeros⟩ = .ok (.wio 0xFF) := by decide

theorem test_decode_cyc : decode ⟨0b0101000000000000, 24, .zeros⟩ = .ok .cyc := by decide

theorem test_decode_init : decode ⟨0b0110000000000000, 24, .zeros⟩ = .ok .init := by decide

theorem test_decode_rcur : decode ⟨0b0111000000000000, 24, .zeros⟩ = .ok .rcur := by decide

theorem test_decode_setbuf : decode ⟨0b1000000000000000, 24, .zeros⟩ = .ok (.setbuf 24) := by decide

theorem test_decode_save : decode ⟨0b1001000000000000, 24, .zeros⟩ = .ok .save := by decide

theorem test_decode_load : decode ⟨0b1010000000000000, 24, recordOfChip .reset⟩ = .ok (.load (recordOfChip .reset)) := by
  decide

theorem test_decode_refusals :
    decode ⟨0b0000000000000000, 0, .zeros⟩ = .error .reservedOp ∧
    decode ⟨0b1111000000000000, 0, .zeros⟩ = .error .reservedOp ∧
    decode ⟨0b0011000100000000, 0, .zeros⟩ = .error .reservedZ ∧
    decode ⟨0b0010000000000001, 0, .zeros⟩ = .error .strayData := by decide

/-! ## The register bus -/

/-- T-BUS-1. -/
theorem test_sel_latches : after (·.chip.latch) (exec (.sel 7) (roomy 8)) = some 7 := by decide

/-- T-BUS-2. -/
theorem test_sel_sixteen_faults :
    after (fun s => (s.fault, s.chip.latch)) (exec (.sel 16) (latched 7)) = some (some (.badIndex 16), 7) := by decide

/-- T-BUS-3, its register 14. -/
theorem test_rd_io_after_init : after (·.outputs) (exec .rd (latched 14)) = some [.byte 0xFF] := by decide

/-- T-FLT-1. -/
theorem test_rd_uninit_faults : after (·.fault) (exec .rd launch) = some (some (.uninit .rd)) := by decide

/-- T-BUS-4. -/
theorem test_wr_masks_the_tone_high_byte :
    after (fun s => (s.chip.reg 1, s.chip.chA.period)) (exec (.wr 0xAB) (latched 1)) = some (0x0B, 2816) := by decide

/-- T-BUS-12. -/
theorem test_wr_shape_restarts :
    after (fun s => (s.chip.reg 13, s.chip.env.volume)) (exec (.wr 0xF8) (latched 13)) = some (0x08, 15) := by decide

/-- T-BUS-14. -/
theorem test_wio_stores_register_fourteen :
    after (fun s => (s.chip.reg 14, s.chip.reg 3, s.chip.latch)) (exec (.wio 0x5A) (latched 3)) =
      some (0x5A, 0x00, 3) := by decide

/-- T-BUS-10, after its second write. -/
theorem test_derive_mixer :
    (deriveMixer (Chip.reset.store 7 0xC7)).chB =
      { ToneChannel.reset with toneDisabled := true, noiseDisabled := false } := by decide

/-- T-BUS-11. -/
theorem test_derive_level :
    (deriveLevel .A (Chip.reset.store 8 0x3F)).chA = { ToneChannel.reset with amplitude := 15, envMode := true } := by
  decide

/-- T-BUS-9, after its second write. -/
theorem test_derive_noise : (deriveNoise (Chip.reset.store 6 0x20)).noise.period = 1 := by decide

/-- T-BUS-13. -/
theorem test_derive_env_period :
    (deriveEnvPeriod ((Chip.reset.store 11 0x34).store 12 0x12)).env.period = 4660 := by decide

/-! ## The generators and the mixer -/

/-- T-TONE-5: the first CYC after the period drops from 4 to 2 under a counter of 2. -/
theorem test_tone_rolls_over_past_the_period :
    toneStep { ToneChannel.reset with period := 2, counter := 2 } =
      { ToneChannel.reset with period := 2, counter := 0, sign := true } := by decide

/-- T-NOISE-1. -/
theorem test_lfsr_table :
    [0x00001, 0x00008, 0x00009, 0x10000, 0x1FFFF, 0x12345, 0x00000].map lfsrNext =
      [0x10000, 0x10004, 0x00004, 0x08000, 0x0FFFF, 0x191A2, 0x00000] := by decide

/-- T-NOISE-6: the counter's largest value, then the first advance. -/
theorem test_noise_threshold_sixty_two :
    noiseStep { period := 31, counter := 60, shift := 1 } = { period := 31, counter := 61, shift := 1 } ∧
    noiseStep { period := 31, counter := 61, shift := 1 } = { period := 31, counter := 0, shift := 0x10000 } := by
  decide

/-- T-ENV-5: the cycle after the period drops to 1 under a counter of 3. -/
theorem test_envelope_rolls_over_past_the_threshold :
    envStep 0x0C { period := 1, counter := 3, segment := false, step := 1, volume := 0 } =
      { period := 1, counter := 0, segment := false, step := 2, volume := 1 } := by decide

/-- T-ENV-1, shape 0xA: the 16th advance goes to segment 1 at volume 0, and the 32nd back to segment 0 at 15. -/
theorem test_envelope_segments_of_shape_ten :
    envStep 0x0A { period := 0, counter := 0, segment := false, step := 15, volume := 1 } =
      { period := 0, counter := 0, segment := true, step := 0, volume := 0 } ∧
    envStep 0x0A { period := 0, counter := 0, segment := true, step := 15, volume := 14 } =
      { period := 0, counter := 0, segment := false, step := 0, volume := 15 } := by decide

/-- A channel with both paths disabled and the level of its register (T-MIX-2). -/
def openChannel (v : Level) : ToneChannel :=
  { ToneChannel.reset with amplitude := v, toneDisabled := true, noiseDisabled := true }

/-- T-MIX-2. -/
theorem test_cyc_mixes_three_channels :
    after (fun s => (s.emitted, s.written, s.cursor, s.outputs))
      (exec .cyc ((roomy 8).setChip
        { Chip.reset with chA := openChannel 1, chB := openChannel 2, chC := openChannel 3 })) =
      some ([186], [(0, 186)], 1, [.count 1]) := by decide

/-- T-FLT-2: F_UNINIT comes before F_NO_BUFFER. -/
theorem test_cyc_uninit_first : after (·.fault) (exec .cyc launch) = some (some (.uninit .cyc)) := by decide

/-! ## Host control -/

/-- T-HOST-1. -/
theorem test_init_resets_the_chip :
    after (fun s => (s.chip.latch, s.chip.reg 14, s.chip.noise.shift, s.sinkCap)) (exec .init (latched 9)) =
      some (0, 0xFF, 1, some 8) := by decide

/-- T-HOST-3, its SETBUF. -/
theorem test_setbuf_keeps_the_cursor :
    after (fun s => (s.sinkCap, s.cursor, s.written))
      (exec (.setbuf 8) { roomy 4 with cursor := 3, written := [(0, 0), (1, 0), (2, 0)] }) =
      some (some 8, 3, []) := by decide

/-- T-HOST-5, its RCUR. -/
theorem test_rcur_keeps_the_samples :
    after (fun s => (s.cursor, s.written)) (exec .rcur { roomy 2 with cursor := 2, written := [(0, 0), (1, 0)] }) =
      some (0, [(0, 0), (1, 0)]) := by decide

/-- T-HOST-6. -/
theorem test_save_returns_the_reset_record :
    after (·.outputs) (exec .save State.reset) =
      some [.record { Record.zeros with
        regs := #v[0, 0, 0, 0, 0, 0, 0, 0, 0, 0, 0, 0, 0, 0, 255, 0], noiseShift := 1 }] := by decide

/-- S0's record with `tone_period[0]` 7 and register 0 still 0. -/
def oddRecord : Record :=
  { recordOfChip .reset with chA := { recordOfChannel .reset with period := 7 } }

/-- T-HOST-11. -/
theorem test_load_recomputes_nothing :
    after (fun s => (s.fault, s.chip.chA.period, s.chip.reg 0)) (exec (.load oddRecord) launch) =
      some (none, 7, 0) := by decide

/-- S0's record with register 1 holding 0x10 (T-HOST-10). -/
def unmaskedRecord : Record := { recordOfChip .reset with regs := (recordOfChip .reset).regs.set 1 0x10 }

/-- T-HOST-10. -/
theorem test_load_checks_the_masks :
    after (·.fault) (exec (.load unmaskedRecord) (roomy 8)) = some (some (.badSnapshot (.reg 1))) := by decide

/-- R97 and log 8: the latch comes before the LFSR in R10's table. -/
theorem test_first_bad_field_in_table_order :
    firstBadField { recordOfChip .reset with latch := 16, noiseShift := 0 } = some .latch := by decide

/-- P4: what each register reads back after a write of 0xFF. -/
theorem test_register_masks :
    (List.range 16).map (fun r => regMask (BitVec.ofNat 4 r)) =
      [0xFF, 0x0F, 0xFF, 0x0F, 0xFF, 0x0F, 0x1F, 0xFF, 0x1F, 0x1F, 0x1F, 0xFF, 0xFF, 0x0F, 0xFF, 0xFF] := by decide

/-! ## Steps, and the assembler -/

/-- T-FLT-6: a faulted state has no step. -/
theorem test_faulted_state_is_stuck :
    advanceRun ((presented 0x6000).markFault .noBuffer) = (presented 0x6000).markFault .noBuffer := by decide

/-- R101, with the word 0xB000. -/
theorem test_refused_word_marks_the_run :
    (advanceRun (presented 0xB000)).refusal = some (.invalidWord 0xB000 .reservedOp) := by decide

/-- P1's line `WREG 7, 0x3E` as R50 writes a line, with a comment. -/
theorem test_assemble_line : assembleLine [] "WREG 7, 0x3E ; mixer" = some [.sel 7, .wr 0x3E] := by decide

/-- R51: TONE writes the low byte first. -/
theorem test_expand_tone :
    AsmCommand.expand (.tone .B 0x345) = [.sel 2, .wr 0x45, .sel 3, .wr 0x03] := by decide

/-! ## Witnesses: a state and operands that meet each statement's hypotheses, one for each clause -/

/-- S0's chip with one register's generator state replaced, and room for eight samples. -/
def withChip (c : Chip) : State := (roomy 8).setChip c

/-- S0 with channel A's period and counter as given. -/
def toneAt (period counter : BitVec 12) : State :=
  withChip { Chip.reset with chA := { ToneChannel.reset with period := period, counter := counter } }

/-- S0 with the noise period and counter as given. -/
def noiseAt (period : BitVec 5) (counter : BitVec 6) : State :=
  withChip { Chip.reset with noise := { Chip.reset.noise with period := period, counter := counter } }

/-- S0 with the envelope's period, counter and step as given. -/
def envAt (period : BitVec 16) (counter : BitVec 17) (step : BitVec 4) : State :=
  withChip { Chip.reset with env := { Chip.reset.env with period := period, counter := counter, step := step } }

theorem roomy_running (n : Nat) : (roomy n).Running := ⟨rfl, rfl, rfl⟩

theorem roomy_room (n : Nat) : (roomy n).RoomFor n := ⟨n, rfl, by simp [roomy, State.reset]⟩

theorem withChip_ready (c : Chip) : (withChip c).initialized = true ∧ (withChip c).RoomFor 1 :=
  ⟨rfl, 8, rfl, by simp [withChip, roomy, State.reset]⟩

theorem reset_sound : State.reset.chip.Sound :=
  ⟨by unfold Chip.masksKept; decide, by decide⟩

theorem latched_masks (r : RegIndex) : (latched r).chip.masksKept := reset_sound.1

/-- S0's record is within its widths. -/
theorem reset_record_fits : RecordFits (recordOfChip .reset) := by
  refine ⟨by decide, by decide, fun ch => ?_, by decide, by decide, by decide, by decide, by decide, by decide,
    by decide, by decide, by decide⟩
  cases ch <;> (unfold ChannelFits; decide)

/-- The zero record breaks `noise_shift ≠ 0` alone. -/
theorem zeros_do_not_fit : ¬ RecordFits Record.zeros := fun h => h.2.2.2.2.2.2.1 rfl

theorem witness_StepRunsPresentedCommand :
    (presented 0x1007).fault = none ∧ (presented 0x1007).refusal = none ∧
    (presented 0x1007).pending = ⟨0x1007, 24, .zeros⟩ :: [] ∧ decode ⟨0x1007, 24, .zeros⟩ = .ok (.sel 7) := by decide

theorem witness_WaitingChangesNothing :
    (roomy 8).fault = none ∧ (roomy 8).refusal = none ∧ (roomy 8).pending = [] := by decide

theorem witness_FetchedWordRunsNext :
    (roomy 8).fault = none ∧ (roomy 8).refusal = none ∧ decodeTableWord 16 0x5000 = some .cyc := by decide

theorem witness_FaultEntryIsPreciseAndTerminal :
    (exec (.sel 16) (roomy 8) = .next ((roomy 8).markFault (.badIndex 16)) ∧
      ((roomy 8).markFault (.badIndex 16)).fault ≠ (roomy 8).fault) ∧
    ((roomy 8).markFault .noBuffer).fault = some .noBuffer := ⟨⟨rfl, by decide⟩, rfl⟩

theorem witness_FirstFaultCauseIsReported :
    (roomy 8).fault = none ∧ (∀ r, Instr.cyc ≠ .load r) ∧ Instr.load .zeros = .load .zeros :=
  ⟨rfl, fun _ h => Instr.noConfusion h, rfl⟩

theorem witness_FaultRecordsItsValue :
    ((roomy 8).initialized = true ∧ 15 < (16 : Byte).toNat) ∧
    (State.reset.initialized = true ∧ State.reset.sinkCap = none) ∧
    ((roomy 0).initialized = true ∧ (roomy 0).sinkCap = some 0 ∧ 0 ≤ (roomy 0).cursor) ∧
    (launch.initialized = false ∧ Instr.save = .save) ∧ ¬ RecordFits Record.zeros :=
  ⟨by decide, by decide, by decide, by decide, zeros_do_not_fit⟩

theorem witness_FullSinkFaultsAndKeepsSamples :
    (roomy 0).initialized = true ∧ (roomy 0).sinkCap = some 0 ∧ 0 ≤ (roomy 0).cursor := by decide

theorem witness_InvalidWordIsRefusedAndMarksTheRun :
    (presented 0xB000).fault = none ∧ (presented 0xB000).refusal = none ∧
    (presented 0xB000).pending = ⟨0xB000, 24, .zeros⟩ :: [] ∧
    (∀ i, decode ⟨0xB000, 24, .zeros⟩ ≠ .ok i) :=
  ⟨rfl, rfl, rfl, fun i h => by
    rw [show decode ⟨0xB000, 24, .zeros⟩ = .error .reservedOp by decide] at h; cases h⟩

/-- A word of each of R48's three cases. -/
theorem witness_RefusedWordsAreTheThreeCases :
    runPresented ⟨0xB000, 0, .zeros⟩ State.reset = .refused (.invalidWord 0xB000 .reservedOp) ∧
    runPresented ⟨0x3100, 0, .zeros⟩ State.reset = .refused (.invalidWord 0x3100 .reservedZ) ∧
    runPresented ⟨0x5001, 0, .zeros⟩ State.reset = .refused (.invalidWord 0x5001 .strayData) := ⟨rfl, rfl, rfl⟩

theorem witness_WordSpellsItsTableRow :
    ((("RD", 0x2000, 0xFFFF, fun _ => .rd) : String × Nat × Nat × (HostCommand → Instr)) ∈ opRows ∧
      (0x2000 : Word).toNat &&& 0xFFFF = 0x2000) ∧
    (∀ m pat mask build, (m, pat, mask, build) ∈ opRows → (0xB000 : Word).toNat &&& mask ≠ pat) := by
  refine ⟨⟨by simp [opRows], by decide⟩, fun m pat mask build h => ?_⟩
  have hp : ∀ q ∈ opRows.map fun row => (row.2.1, row.2.2.1), (0xB000 : Word).toNat &&& q.2 ≠ q.1 := by decide
  exact hp (pat, mask) (List.mem_map.mpr ⟨_, h, rfl⟩)

theorem witness_DecodeOfEncodeIsIdentity : decode ⟨0x10FF, 0, .zeros⟩ = .ok (.sel 255) := by decide

theorem witness_UninitializedChipIsNeverRead :
    launch.initialized = false ∧ Instr.rd = .rd ∧
    (∃ r, Instr.load (recordOfChip .reset) = .load r ∧ RecordFits r) := ⟨rfl, rfl, _, rfl, reset_record_fits⟩

theorem witness_SelSetsTheLatchAlone :
    ((roomy 8).initialized = true ∧ (15 : Byte).toNat ≤ 15) ∧ ((roomy 8).initialized = true ∧ 15 < (16 : Byte).toNat) ∧
    launch.initialized = false := by decide

theorem witness_RdReturnsTheLatchedRegister :
    (roomy 8).initialized = true ∧ launch.initialized = false := by decide

theorem witness_WrittenRegisterReadsBackMasked : (roomy 8).Running := roomy_running 8

/-- Registers 0 and 5, the first of channel A's pair and the second of channel C's. -/
theorem witness_WrToTonePairSetsThePeriod :
    ((latched 0).initialized = true ∧ (latched 0).chip.masksKept ∧ (latched 0).chip.latch.toNat = 2 * Channel.A.index) ∧
    ((latched 5).initialized = true ∧ (latched 5).chip.masksKept ∧
      (latched 5).chip.latch.toNat = 2 * Channel.C.index + 1) :=
  ⟨⟨rfl, latched_masks 0, by decide⟩, rfl, latched_masks 5, by decide⟩

theorem witness_WrToRegisterSixSetsTheNoisePeriod :
    (latched 6).initialized = true ∧ (latched 6).chip.latch = 6 := by decide

theorem witness_WrToRegisterSevenSetsTheDisableFlags :
    (latched 7).initialized = true ∧ (latched 7).chip.latch = 7 := by decide

/-- Registers 8 and 10. -/
theorem witness_WrToLevelRegisterSetsAmplitudeAndMode :
    ((latched 8).initialized = true ∧ (latched 8).chip.latch.toNat = 8 + Channel.A.index) ∧
    ((latched 10).initialized = true ∧ (latched 10).chip.latch.toNat = 8 + Channel.C.index) := by decide

theorem witness_WrToRegisterElevenOrTwelveSetsTheEnvelopePeriod :
    ((latched 11).initialized = true ∧ (latched 11).chip.latch = 11) ∧
    ((latched 12).initialized = true ∧ (latched 12).chip.latch = 12) := by decide

theorem witness_WrToRegisterThirteenRestartsTheEnvelope :
    (latched 13).initialized = true ∧ (latched 13).chip.latch = 13 := by decide

theorem witness_WrToRegisterFourteenOrFifteenStoresOnly :
    ((latched 14).initialized = true ∧ (latched 14).chip.latch = 14) ∧
    ((latched 15).initialized = true ∧ (latched 15).chip.latch = 15) := by decide

theorem witness_WioStoresTheIoRegister : (roomy 8).initialized = true ∧ launch.initialized = false := by decide

theorem witness_OnlyShapeWritesTouchTheRunningState :
    (Instr.wr 5 = .wr 5 ∧ (latched 12).initialized = true ∧ (latched 12).chip.latch ≠ 13) ∧
    (Instr.wio 5 = .wio 5 ∧ (latched 13).initialized = true) := by decide

/-- Counter 1 of period 2, which rolls over, and counter 1 of period 3, which does not. -/
theorem witness_CycStepsEachToneGenerator :
    ((toneAt 2 1).initialized = true ∧ (toneAt 2 1).RoomFor 1 ∧
      ((toneAt 2 1).chip.channel .A).period.toNat ≤ ((toneAt 2 1).chip.channel .A).counter.toNat + 1) ∧
    ((toneAt 3 1).initialized = true ∧ (toneAt 3 1).RoomFor 1 ∧
      ((toneAt 3 1).chip.channel .A).counter.toNat + 1 < ((toneAt 3 1).chip.channel .A).period.toNat) :=
  ⟨⟨rfl, (withChip_ready _).2, by decide⟩, rfl, (withChip_ready _).2, by decide⟩

theorem witness_CycStepsTheNoiseGenerator :
    ((noiseAt 1 1).initialized = true ∧ (noiseAt 1 1).RoomFor 1 ∧
      2 * (noiseAt 1 1).chip.noise.period.toNat ≤ (noiseAt 1 1).chip.noise.counter.toNat + 1) ∧
    ((noiseAt 1 0).initialized = true ∧ (noiseAt 1 0).RoomFor 1 ∧
      (noiseAt 1 0).chip.noise.counter.toNat + 1 < 2 * (noiseAt 1 0).chip.noise.period.toNat) :=
  ⟨⟨rfl, (withChip_ready _).2, by decide⟩, rfl, (withChip_ready _).2, by decide⟩

theorem witness_CycStepsTheEnvelope :
    ((envAt 1 0 3).initialized = true ∧ (envAt 1 0 3).RoomFor 1 ∧
      (envAt 1 0 3).chip.env.counter.toNat + 1 < 2 * (envAt 1 0 3).chip.env.period.toNat) ∧
    ((envAt 1 1 14).initialized = true ∧ (envAt 1 1 14).RoomFor 1 ∧
      2 * (envAt 1 1 14).chip.env.period.toNat ≤ (envAt 1 1 14).chip.env.counter.toNat + 1 ∧
      (envAt 1 1 14).chip.env.step.toNat < 15) ∧
    ((envAt 1 1 15).initialized = true ∧ (envAt 1 1 15).RoomFor 1 ∧
      2 * (envAt 1 1 15).chip.env.period.toNat ≤ (envAt 1 1 15).chip.env.counter.toNat + 1 ∧
      (envAt 1 1 15).chip.env.step.toNat = 15) :=
  ⟨⟨rfl, (withChip_ready _).2, by decide⟩, ⟨rfl, (withChip_ready _).2, by decide, by decide⟩,
    rfl, (withChip_ready _).2, by decide, by decide⟩

theorem witness_CycSampleIsTheGatedSum : (roomy 1).initialized = true ∧ (roomy 1).RoomFor 1 := ⟨rfl, roomy_room 1⟩

theorem witness_CycAppendsOneSample :
    (roomy 1).initialized = true ∧ (roomy 1).RoomFor 1 ∧ 1 ≠ (roomy 1).cursor := ⟨rfl, roomy_room 1, by decide⟩

theorem witness_ToneIsASquareWave :
    (toneAt 4 0).Running ∧ (toneAt 4 0).RoomFor 8 ∧ ((toneAt 4 0).chip.channel .A).counter = 0 :=
  ⟨⟨rfl, rfl, rfl⟩, ⟨8, rfl, by decide⟩, rfl⟩

theorem witness_NoiseAdvancesEveryTwoPeriods :
    (noiseAt 1 0).Running ∧ (noiseAt 1 0).RoomFor 8 ∧ (noiseAt 1 0).chip.noise.counter = 0 :=
  ⟨⟨rfl, rfl, rfl⟩, ⟨8, rfl, by decide⟩, rfl⟩

theorem witness_LfsrHasFullPeriod :
    (1 : BitVec 17) ≠ 0 ∧
    (((roomy 8).initialized = true → (roomy 8).chip.noise.shift ≠ 0) ∧
      exec .cyc (roomy 8) = .next (roomy 8).cycle ∧ (roomy 8).cycle.initialized = true) ∧
    Record.zeros.noiseShift = 0 ∧ 0 < 131070 ∧ 131070 < 131071 :=
  ⟨by decide, ⟨fun _ => by decide, rfl, rfl⟩, by decide⟩

theorem witness_EnvelopeFollowsTheShapeTable :
    (latched 13).Running ∧ (latched 13).RoomFor 8 ∧ (latched 13).chip.latch = 13 :=
  ⟨⟨rfl, rfl, rfl⟩, ⟨8, rfl, by decide⟩, rfl⟩

theorem witness_ResetStateRunsSilentAndWrapsTheVolumeOnce :
    (roomy 20).fault = none ∧ (roomy 20).refusal = none ∧ (roomy 20).RoomFor 20 := ⟨rfl, rfl, roomy_room 20⟩

theorem witness_SaveCopiesEveryField : (roomy 8).initialized = true ∧ launch.initialized = false := by decide

theorem witness_LoadTakesAWellFormedRecordAsGiven :
    RecordFits (recordOfChip .reset) ∧ ¬ RecordFits Record.zeros := ⟨reset_record_fits, zeros_do_not_fit⟩

theorem witness_SaveThenLoadIsIndistinguishable : (roomy 8).initialized = true ∧ (roomy 8).chip.Sound :=
  ⟨rfl, reset_sound⟩

theorem witness_SoundIsKept : (presented 0x1007).Sound ∧ step (presented 0x1007) = .next (latched 7) :=
  ⟨⟨fun _ => reset_sound, rfl, fun _ _ h => nomatch h⟩, rfl⟩

/-- A program of the commands but LOAD: WREG 1, 0xAB, then a cycle. -/
theorem witness_DerivedFieldsStayConsistent :
    (roomy 8).fault = none ∧ (roomy 8).refusal = none ∧
    ∀ i ∈ [Instr.sel 1, .wr 0xAB, .cyc], ∀ r, i ≠ .load r := by
  refine ⟨rfl, rfl, fun i h r e => ?_⟩
  subst e
  simp at h

theorem witness_CountersStayInRange :
    (roomy 8).fault = none ∧ (roomy 8).refusal = none ∧
    ∀ i ∈ [Instr.sel 1, .wr 0xAB, .cyc], ∀ r, i ≠ .load r := witness_DerivedFieldsStayConsistent

theorem witness_OnlySelInitAndLoadMoveTheLatch :
    exec (.sel 7) (roomy 8) = .next (latched 7) ∧ (latched 7).chip.latch ≠ (roomy 8).chip.latch :=
  ⟨rfl, by decide⟩

/-- A cycle flips the phase of a channel with period 0; a WR to register 7, 8 and 13 moves the other flags. -/
theorem witness_EachFlagHasItsWriters :
    (exec .cyc (roomy 8) = .next (roomy 8).cycle ∧
      ((roomy 8).cycle.chip.channel .A).sign ≠ ((roomy 8).chip.channel .A).sign) ∧
    after (fun t => t.chip.chA.toneDisabled) (exec (.wr 1) (latched 7)) ≠ some (latched 7).chip.chA.toneDisabled ∧
    after (fun t => t.chip.chA.envMode) (exec (.wr 0x10) (latched 8)) ≠ some (latched 8).chip.chA.envMode ∧
    after (fun t => t.chip.env.segment)
      (exec (.wr 0) ((latched 13).setChip
        { (latched 13).chip with env := { Chip.reset.env with segment := true } })) ≠ some true :=
  ⟨⟨rfl, by decide⟩, by decide, by decide, by decide⟩

theorem witness_OnlyCycAdvancesTheGenerators :
    exec .cyc (roomy 8) = .next (roomy 8).cycle ∧ exec (.sel 7) (roomy 8) = .next (latched 7) ∧
    Instr.sel 7 ≠ .cyc ∧ Instr.sel 7 ≠ .init ∧ ∀ r, Instr.sel 7 ≠ .load r :=
  ⟨rfl, rfl, by decide, by decide, fun _ h => Instr.noConfusion h⟩

theorem witness_EqualBuffersAreEqualData :
    Memory.wf [(0, 5), (3, 0)] = true ∧ Memory.wf (Memory.write [(3, 0)] 0 5) = true ∧
    ∀ i, Memory.read [(0, 5), (3, 0)] i = Memory.read (Memory.write [(3, 0)] 0 5) i :=
  ⟨by decide, by decide, fun _ => rfl⟩

theorem witness_WordRunRefinesCommandRun :
    (roomy 8).pending = [] ∧ (execAll [.cyc] (roomy 8)).fault = none ∧ (execAll [.cyc] (roomy 8)).refusal = none := by
  decide

theorem witness_PseudoInstructionsReachTheirRegisters : (roomy 8).Running ∧ (roomy 8).RoomFor 8 :=
  ⟨roomy_running 8, roomy_room 8⟩

/-- Two instances, the first in each of the three cases of a step. -/
theorem witness_InstancesAreIndependent :
    (([presented 0x1007, roomy 8] : Chips)[0]? = some (presented 0x1007) ∧
      step (presented 0x1007) = .next (latched 7)) ∧
    (([(roomy 8).markFault .noBuffer, roomy 8] : Chips)[0]? = some ((roomy 8).markFault .noBuffer) ∧
      step ((roomy 8).markFault .noBuffer) = .fault .noBuffer) ∧
    (([presented 0xB000, roomy 8] : Chips)[0]? = some (presented 0xB000) ∧
      step (presented 0xB000) = .refused (.invalidWord 0xB000 .reservedOp)) :=
  ⟨⟨rfl, rfl⟩, ⟨rfl, rfl⟩, rfl, rfl⟩

theorem witness_EveryCommandButLoadKeepsConsistency :
    (∀ r, Instr.cyc ≠ .load r) ∧ (roomy 8).chip.consistent ∧ exec .cyc (roomy 8) = .next (roomy 8).cycle := by
  refine ⟨fun _ h => Instr.noConfusion h, ⟨fun ch => .inr ?_, .inr ⟨rfl, rfl⟩, ?_, ?_, ?_, ?_, rfl⟩, rfl⟩
  · cases ch <;> exact ⟨rfl, rfl, rfl⟩
  all_goals intro ch; cases ch <;> rfl

theorem witness_EveryCommandButLoadKeepsCounterRanges :
    (∀ r, Instr.cyc ≠ .load r) ∧ (roomy 8).chip.countersInRange ∧ exec .cyc (roomy 8) = .next (roomy 8).cycle := by
  refine ⟨fun _ h => Instr.noConfusion h, ⟨fun ch => ?_, by decide, by decide⟩, rfl⟩
  cases ch <;> decide

end Sys2Proof.Tests
end

section
/-! PROOFS. The scope of the machine (00_scope.md): a step runs the command the presented word spells, and the run of
a program's words is the run of its commands. The idea of both is one law each: the decoder undoes the encoder, and no
command reads or changes the queue of presented words. -/

namespace Sys2Proof

open Sys2Proof.Laws.EncodedWord in
/-- The word of every instruction passes the checks of R48. -/
theorem encode_wordPasses (i : Instr) : Laws.EncodedWord.Statement i := by
  cases i with
  | sel d => exact sel d
  | rd => exact rd
  | wr d => exact wr d
  | wio d => exact wio d
  | cyc => exact cyc
  | init => exact init
  | rcur => exact rcur
  | setbuf n => exact setbuf n
  | save => exact save
  | load r => exact load r

/-- A well-formed word is decoded by its operation code. -/
theorem decode_of_wf {c : HostCommand} (h : HostCommand.wf c = true) : decode c = decodeOp c := by
  simp only [HostCommand.wf, Word.wf, Bool.and_eq_true, Word.zClear, beq_iff_eq] at h
  obtain ⟨⟨hop, hz⟩, -⟩ := h
  rw [decode, if_pos hop, if_pos hz]

open Sys2Proof.Laws.EncodedWord in
/-- The row of R45 that an encoded instruction's operation code selects is the instruction's own. -/
theorem decodeOp_encode (i : Instr) : decodeOp (encode i) = .ok i := by
  cases i <;>
    simp [decodeOp, decodePlain, encode, Instr.word, Instr.capacity, Instr.record, assemble_op, assemble_d]

/-- The decoder undoes the encoder (R45 to R48). -/
@[simp] theorem decode_encode (i : Instr) : decode (encode i) = .ok i := by
  rw [decode_of_wf (encode_wordPasses i).1, decodeOp_encode]

end Sys2Proof

namespace Sys2Proof.Machine

open Sys2Proof

/-! ### The queue of presented words (log 5) -/

@[simp] theorem State.setPending_setPending (s : State) (q q' : List HostCommand) :
    (s.setPending q).setPending q' = s.setPending q' := rfl

@[simp] theorem State.setPending_self (s : State) : s.setPending s.pending = s := rfl

/-- Two results are next states that agree in everything but the queue, which is `q` in the second. -/
def SameNextBut (q : List HostCommand) (r r' : Result) : Prop :=
  ∃ t, r = .next t ∧ r' = .next (t.setPending q)

/-- A raised fault leaves the queue out of account. -/
theorem raise_sameNextBut (q : List HostCommand) (f : Fault) (s : State) :
    SameNextBut q (raise f s) (raise f (s.setPending q)) := ⟨s.markFault f, rfl, rfl⟩

/-- The F_UNINIT guard leaves the queue out of account when what it guards does. -/
theorem requireInit_sameNextBut {q : List HostCommand} {r r' : Result} (i : Instr) (s : State)
    (h : SameNextBut q r r') : SameNextBut q (requireInit i s r) (requireInit i (s.setPending q) r') := by
  cases hi : s.initialized with
  | true => rwa [requireInit_of_init i r hi, requireInit_of_init i r' (by simpa using hi)]
  | false =>
    rw [requireInit_of_uninit i r hi, requireInit_of_uninit i r' (by simpa using hi)]
    exact raise_sameNextBut q _ s

/-- Every command answers a next state, and neither reads nor changes the queue. -/
theorem exec_sameNextBut (q : List HostCommand) (i : Instr) (s : State) :
    SameNextBut q (exec i s) (exec i (s.setPending q)) := by
  cases i with
  | sel d =>
    apply requireInit_sameNextBut
    cases indexOperand d with
    | none => exact raise_sameNextBut q _ s
    | some r => exact ⟨_, rfl, rfl⟩
  | rd => exact requireInit_sameNextBut _ _ ⟨_, rfl, rfl⟩
  | wr d => exact requireInit_sameNextBut _ _ ⟨_, rfl, rfl⟩
  | wio d => exact requireInit_sameNextBut _ _ ⟨_, rfl, rfl⟩
  | cyc =>
    apply requireInit_sameNextBut
    rw [State.setPending_sinkCap, State.setPending_cursor]
    cases s.sinkCap with
    | none => exact raise_sameNextBut q _ s
    | some cap =>
      by_cases hfull : s.cursor ≥ cap
      · simp only [if_pos hfull]
        exact raise_sameNextBut q _ s
      · simp only [if_neg hfull]
        exact ⟨_, rfl, rfl⟩
  | init => exact ⟨_, rfl, rfl⟩
  | rcur => exact ⟨_, rfl, rfl⟩
  | setbuf n => exact ⟨_, rfl, rfl⟩
  | save => exact requireInit_sameNextBut _ _ ⟨_, rfl, rfl⟩
  | load r =>
    change SameNextBut q (execLoad r s) (execLoad r (s.setPending q))
    unfold execLoad
    cases firstBadField r with
    | none => exact ⟨_, rfl, rfl⟩
    | some f => exact raise_sameNextBut q _ s

/-- Every command answers a next state. -/
theorem exec_total (i : Instr) (s : State) : ∃ t, exec i s = .next t :=
  have ⟨t, ht, _⟩ := exec_sameNextBut s.pending i s
  ⟨t, ht⟩

/-- A command runs the same whatever the queue. -/
theorem exec_setPending {i : Instr} {s t : State} (h : exec i s = .next t) (q : List HostCommand) :
    exec i (s.setPending q) = .next (t.setPending q) := by
  obtain ⟨t', ht', hq⟩ := exec_sameNextBut q i s
  obtain rfl : t = t' := Host.Outcome.next.inj (h.symm.trans ht')
  exact hq

/-- A command leaves the queue alone. -/
theorem exec_pending {i : Instr} {s t : State} (h : exec i s = .next t) : t.pending = s.pending := by
  have hself : t = t.setPending s.pending := Host.Outcome.next.inj (h.symm.trans (exec_setPending h s.pending))
  rw [hself, State.setPending_pending]

/-! ### Steps -/

/-- An unmarked state runs the next presented command (R3, R4, R25). -/
theorem step_of_pending {s : State} {c : HostCommand} {rest : List HostCommand} {i : Instr}
    (hf : s.fault = none) (hr : s.refusal = none) (hp : s.pending = c :: rest) (hd : decode c = .ok i) :
    step s = exec i (s.setPending rest) := by
  simp only [step, hf, hr, runNext, hp, runPresented, hd]

/-- Settles O1: the step is `runNext`'s arm for a non-empty queue. -/
theorem stepRunsPresentedCommand : Obligations.StepRunsPresentedCommand := by
  intro s c rest i hf hr hp hd
  exact step_of_pending hf hr hp hd

/-! ### Runs -/

/-- A refusal's mark is set once (R101). -/
theorem State.markRefused_self {s : State} {r : Refusal} (h : s.refusal = some r) : s.markRefused r = s := by
  rw [State.markRefused, ← h]

/-- A marked run stays where it is: a fault is terminal (R98), and a refusal's mark is kept (R101). -/
theorem advanceRun_of_marked {s : State} (h : (s.fault.isSome || s.refusal.isSome) = true) : advanceRun s = s := by
  cases hf : s.fault with
  | some f => simp only [advanceRun, step, hf]
  | none =>
    cases hr : s.refusal with
    | some r => simp only [advanceRun, step, hf, hr, State.markRefused_self hr]
    | none => simp [hf, hr] at h

/-- A marked run stays where it is for any number of steps. -/
theorem runSteps_of_marked {s : State} (h : (s.fault.isSome || s.refusal.isSome) = true) (n : Nat) :
    runSteps n s = s := by
  induction n with
  | zero => rfl
  | succ n ih => rw [runSteps, advanceRun_of_marked h, ih]

/-- A marked state executes nothing more of a program (R98, R101). -/
theorem execAll_of_marked {s : State} (h : (s.fault.isSome || s.refusal.isSome) = true) (p : List Instr) :
    execAll p s = s := by
  cases p with
  | nil => rfl
  | cons i p => rw [execAll, if_pos h]

/-- An unmarked state executes a program's first command, then the rest from the state it left (R37). -/
theorem execAll_cons {i : Instr} {p : List Instr} {s t : State} (hm : ¬ (s.fault.isSome || s.refusal.isSome) = true)
    (h : exec i s = .next t) : execAll (i :: p) s = execAll p t := by
  simp only [execAll, if_neg hm, h]

/-- Executing commands leaves the queue alone. -/
@[simp] theorem execAll_pending (p : List Instr) (s : State) : (execAll p s).pending = s.pending := by
  induction p generalizing s with
  | nil => rfl
  | cons i p ih =>
    by_cases hm : (s.fault.isSome || s.refusal.isSome) = true
    · rw [execAll_of_marked hm]
    · obtain ⟨t, ht⟩ := exec_total i s
      rw [execAll_cons hm ht, ih, exec_pending ht]

/-- One step of an unmarked run over the word of `i` executes `i` and takes the word off the queue. -/
theorem advanceRun_encode {i : Instr} {s t : State} (hm : ¬ (s.fault.isSome || s.refusal.isSome) = true)
    (h : exec i s = .next t) (q : List HostCommand) :
    advanceRun (s.setPending (encode i :: q)) = t.setPending q := by
  obtain ⟨hf, hr⟩ : s.fault = none ∧ s.refusal = none := by simpa using hm
  have hstep : step (s.setPending (encode i :: q)) = .next (t.setPending q) := by
    rw [step_of_pending (s := s.setPending (encode i :: q)) hf hr rfl (decode_encode i), State.setPending_setPending, exec_setPending h]
  rw [advanceRun, hstep]

/-- The commuting diagram of the two runs: stepping once a word leaves what executing the commands leaves, up to the
words that stay in the queue behind a mark. -/
theorem runSteps_encode (p : List Instr) (s : State) :
    ∃ q, runSteps p.length (s.setPending (p.map encode)) = (execAll p s).setPending q ∧
      ((execAll p s).fault = none → (execAll p s).refusal = none → q = []) := by
  induction p generalizing s with
  | nil => exact ⟨[], rfl, fun _ _ => rfl⟩
  | cons i p ih =>
    by_cases hm : (s.fault.isSome || s.refusal.isSome) = true
    · rw [execAll_of_marked hm, runSteps_of_marked (s := s.setPending ((i :: p).map encode)) hm]
      exact ⟨_, rfl, fun hf hr => by simp [hf, hr] at hm⟩
    · obtain ⟨t, ht⟩ := exec_total i s
      rw [execAll_cons hm ht, List.length_cons, List.map_cons, runSteps, advanceRun_encode hm ht]
      exact ih t

/-- Settles O52, by the commuting diagram of the two runs, an induction on the program. -/
theorem wordRunRefinesCommandRun : Obligations.WordRunRefinesCommandRun := by
  intro p s hempty
  obtain ⟨q, hrun, hq⟩ := runSteps_encode p s
  have hprogram : runProgram p s = (execAll p s).setPending q := by
    simp only [runProgram, State.presentProgram, hempty, List.length_nil, Nat.zero_add, List.nil_append, hrun]
  have hpending : (execAll p s).pending = [] := by rw [execAll_pending, hempty]
  rw [hprogram]
  constructor
  · calc (execAll p s).setPending []
      _ = (execAll p s).setPending (execAll p s).pending := by rw [hpending]
      _ = execAll p s := State.setPending_self _
  · exact hq

end Sys2Proof.Machine
end

section
/-! PROOFS. The state (10_state.md): what a register write does to each field of the chip record, the ways a command
can change the chip record and the buffer, and the invariants the spec draws from them: `State.Sound` (R10, R23, R73),
the counters' ranges (R16) and the consistency of the cached fields (R21). Each invariant is kept by every way of
changing the chip record, so by every command, so by every run. -/

namespace Sys2Proof.Machine

open Sys2Proof Sys2Proof.Rules

/-! ### A register write, field by field (R54 to R61) -/

/-- A derivation reads the register file and does not write it. -/
@[simp] theorem derive_regs (d : Derivation) (c : Chip) : (derive d c).regs = c.regs := by
  cases d <;> simp [derive, deriveTone, deriveMixer, deriveLevel]

@[simp] theorem derive_latch (d : Derivation) (c : Chip) : (derive d c).latch = c.latch := by
  cases d <;> simp [derive, deriveTone, deriveMixer, deriveLevel]

@[simp] theorem derive_reg (d : Derivation) (c : Chip) (r : RegIndex) : (derive d c).reg r = c.reg r :=
  Chip.reg_congr _ _ (derive_regs d c) r

/-- Channel `i` after a derivation: which derivation writes each of its fields (R55, R57, R58, R63). -/
@[simp] theorem derive_channel (d : Derivation) (c : Chip) (i : Channel) :
    (derive d c).channel i =
      { period :=
          if d = .tone i then tonePeriodOf (c.reg (toneLowRegister i)) (c.reg (toneHighRegister i))
          else (c.channel i).period
        counter := (c.channel i).counter
        sign := (c.channel i).sign
        amplitude := if d = .level i then amplitudeOf (c.reg (levelRegister i)) else (c.channel i).amplitude
        toneDisabled := if d = .mixer then toneDisableBit (c.reg 7) i else (c.channel i).toneDisabled
        noiseDisabled := if d = .mixer then noiseDisableBit (c.reg 7) i else (c.channel i).noiseDisabled
        envMode := if d = .level i then envModeBit (c.reg (levelRegister i)) else (c.channel i).envMode } := by
  cases d with
  | tone ch => by_cases h : i = ch <;> simp [derive, deriveTone, h, eq_comm]
  | level ch => by_cases h : i = ch <;> simp [derive, deriveLevel, h, eq_comm]
  | mixer => simp [derive, deriveMixer]
  | noise => cases i <;> rfl
  | envPeriod => cases i <;> rfl
  | shape => cases i <;> rfl
  | nothing => cases i <;> rfl

/-- The noise generator after a derivation (R56, R63). -/
@[simp] theorem derive_noise (d : Derivation) (c : Chip) :
    (derive d c).noise =
      { c.noise with period := if d = .noise then noisePeriodOf (c.reg 6) else c.noise.period } := by
  cases d <;> simp [derive, deriveTone, deriveMixer, deriveLevel]

/-- The envelope after a derivation: only the shape register restarts it (R59, R60, R63). -/
@[simp] theorem derive_env (d : Derivation) (c : Chip) :
    (derive d c).env =
      { period := if d = .envPeriod then envPeriodOf (c.reg 11) (c.reg 12) else c.env.period
        counter := if d = .shape then 0 else c.env.counter
        segment := if d = .shape then false else c.env.segment
        step := if d = .shape then 0 else c.env.step
        volume := if d = .shape then segmentStart c.shape false else c.env.volume } := by
  cases d <;> simp [derive, deriveTone, deriveMixer, deriveLevel, envReset]

/-- A register write stores the masked value and leaves every other register alone (R13, R54). -/
@[simp] theorem Chip.writeReg_reg (c : Chip) (r r' : RegIndex) (d : Byte) :
    (c.writeReg r d).reg r' = if r' = r then d &&& regMask r else c.reg r' := by
  simp [Chip.writeReg]

@[simp] theorem Chip.writeReg_latch (c : Chip) (r : RegIndex) (d : Byte) : (c.writeReg r d).latch = c.latch := by
  simp [Chip.writeReg]

/-! ### The generator steps of a cycle (R64, R70, R78) -/

@[simp] theorem envAdvance_period (shape : Byte) (e : EnvGen) : (envAdvance shape e).period = e.period := by
  unfold envAdvance; split <;> rfl

@[simp] theorem envAdvance_counter (shape : Byte) (e : EnvGen) : (envAdvance shape e).counter = e.counter := by
  unfold envAdvance; split <;> rfl

@[simp] theorem envStep_period (shape : Byte) (e : EnvGen) : (envStep shape e).period = e.period := by
  unfold envStep; split <;> simp

@[simp] theorem noiseStep_period (n : NoiseGen) : (noiseStep n).period = n.period := by
  unfold noiseStep; split <;> rfl

/-- A tone step writes the counter and the phase alone (R64). -/
theorem toneStep_eq (t : ToneChannel) :
    toneStep t = { t with counter := (toneStep t).counter, sign := (toneStep t).sign } := by
  unfold toneStep; split <;> rfl

@[simp] theorem toneStep_period (t : ToneChannel) : (toneStep t).period = t.period := by rw [toneStep_eq]

@[simp] theorem toneStep_amplitude (t : ToneChannel) : (toneStep t).amplitude = t.amplitude := by rw [toneStep_eq]

@[simp] theorem toneStep_toneDisabled (t : ToneChannel) : (toneStep t).toneDisabled = t.toneDisabled := by
  rw [toneStep_eq]

@[simp] theorem toneStep_noiseDisabled (t : ToneChannel) : (toneStep t).noiseDisabled = t.noiseDisabled := by
  rw [toneStep_eq]

@[simp] theorem toneStep_envMode (t : ToneChannel) : (toneStep t).envMode = t.envMode := by rw [toneStep_eq]

/-- A tone step leaves its counter below the largest period, whatever it was (R16, R64). -/
theorem toneStep_counter_le (t : ToneChannel) : (toneStep t).counter.toNat ≤ 4094 := by
  have hp := t.period.isLt
  unfold toneStep
  split
  · simp
  · simp only [BitVec.toNat_ofNat]; omega

/-- A noise step leaves its counter below twice the largest period, whatever it was (R16, R70). -/
theorem noiseStep_counter_le (n : NoiseGen) : (noiseStep n).counter.toNat ≤ 61 := by
  have hp := n.period.isLt
  unfold noiseStep
  split
  · simp
  · simp only [BitVec.toNat_ofNat]; omega

/-- An envelope step leaves its counter below twice the largest period, whatever it was (R16, R78). -/
theorem envStep_counter_le (shape : Byte) (e : EnvGen) : (envStep shape e).counter.toNat ≤ 131069 := by
  have hp := e.period.isLt
  unfold envStep
  split
  · simp
  · simp only [BitVec.toNat_ofNat]; omega

/-- The bits of the LFSR after an advance: a shift right, with bit 0 XOR bit 3 put in at the top (R71). -/
theorem lfsrNext_getLsbD (x : BitVec 17) (k : Nat) :
    (lfsrNext x).getLsbD k =
      if k < 16 then x.getLsbD (k + 1) else (decide (k = 16) && (x.getLsbD 0 ^^ x.getLsbD 3)) := by
  have hk : k < 16 ∨ k = 16 ∨ 16 < k := by omega
  rcases hk with hk | rfl | hk
  · have : k < 17 := by omega
    simp [lfsrNext, hk, Nat.add_comm 1 k]
  · simp [lfsrNext]
  · have hlow : ¬ k < 16 := by omega
    have hne : k ≠ 16 := by omega
    rw [BitVec.getLsbD_of_ge _ _ (by omega), if_neg hlow, decide_eq_false hne, Bool.false_and]

/-- The LFSR never steps from a non-zero value to 0 (R73). -/
theorem lfsrNext_ne_zero {x : BitVec 17} (hx : x ≠ 0) : lfsrNext x ≠ 0 := by
  intro h0
  have hbit (k : Nat) : (lfsrNext x).getLsbD k = false := by rw [h0]; simp
  have hhigh (k : Nat) (hk : k < 16) : x.getLsbD (k + 1) = false := by
    have := hbit k
    rwa [lfsrNext_getLsbD, if_pos hk] at this
  have hlow : x.getLsbD 0 = false := by
    have := hbit 16
    rw [lfsrNext_getLsbD, hhigh 2 (by decide)] at this
    simpa using this
  refine hx (BitVec.eq_of_getLsbD_eq fun k hk => ?_)
  cases k with
  | zero => simpa using hlow
  | succ k => simpa using hhigh k (by omega)

/-- A noise step keeps a non-zero LFSR non-zero (R73). -/
theorem noiseStep_shift_ne_zero {n : NoiseGen} (h : n.shift ≠ 0) : (noiseStep n).shift ≠ 0 := by
  unfold noiseStep
  split
  · exact lfsrNext_ne_zero h
  · exact h

/-! ### What a command can do to the chip record, and to the buffer -/

/-- The ways a command can put a new chip record in the place of `s`'s, each with what the command has checked. -/
inductive ChipMove (s : State) : Instr → Chip → Prop
  | sel (d : Byte) (hi : s.initialized = true) (hd : d.toNat ≤ 15) :
      ChipMove s (.sel d) (s.chip.setLatch (d.extractLsb' 0 4))
  | wr (d : Byte) (hi : s.initialized = true) : ChipMove s (.wr d) (s.chip.writeReg s.chip.latch d)
  | wio (d : Byte) (hi : s.initialized = true) : ChipMove s (.wio d) (s.chip.store ioRegister d)
  | cyc (hi : s.initialized = true) : ChipMove s .cyc s.chip.advance
  | init : ChipMove s .init .reset
  | load (r : Record) (hr : firstBadField r = none) : ChipMove s (.load r) (chipOfRecord r)

/-- A command leaves the chip record and `initialized` alone, or is one of the six that change the record. -/
theorem exec_chip_cases {i : Instr} {s t : State} (h : exec i s = .next t) :
    (t.chip = s.chip ∧ t.initialized = s.initialized) ∨ ChipMove s i t.chip := by
  rcases exec_next_cases h with ⟨f, rfl⟩ | ⟨d, rfl, hi, rfl⟩ | ⟨rfl, hi, rfl⟩ | ⟨d, rfl, hi, rfl⟩ | ⟨d, rfl, hi, rfl⟩ |
    ⟨cap, rfl, hi, -, -, rfl⟩ | ⟨rfl, rfl⟩ | ⟨rfl, rfl⟩ | ⟨n, rfl, rfl⟩ | ⟨rfl, hi, rfl⟩ | ⟨r, rfl, hr, rfl⟩
  · exact .inl ⟨rfl, rfl⟩
  · by_cases hd : d.toNat ≤ 15
    · exact .inr (.sel d hi hd)
    · left
      rw [exec, execSel, requireInit_of_init _ _ hi, indexOperand_of_gt (by omega), raise_eq] at h
      rw [← Host.Outcome.next.inj h]
      exact ⟨rfl, rfl⟩
  · exact .inl ⟨rfl, rfl⟩
  · exact .inr (.wr d hi)
  · exact .inr (.wio d hi)
  · exact .inr (.cyc hi)
  · exact .inr .init
  · exact .inl ⟨rfl, rfl⟩
  · exact .inl ⟨rfl, rfl⟩
  · exact .inl ⟨rfl, rfl⟩
  · exact .inr (.load r hr)

/-- A property of the chip record that every change keeps is kept by every command. -/
theorem exec_keeps_chip {P : Chip → Prop} {i : Instr} {s t : State} (hs : P s.chip)
    (hmove : ∀ c, ChipMove s i c → P c) (h : exec i s = .next t) : P t.chip := by
  rcases exec_chip_cases h with ⟨hc, -⟩ | hm
  · rwa [hc]
  · exact hmove _ hm

/-- A command leaves the buffer and its capacity alone, or hands over an empty buffer (SETBUF, R92), or writes one
sample at a cursor below the capacity (CYC, R89). -/
theorem exec_sink_cases {i : Instr} {s t : State} (h : exec i s = .next t) :
    (t.written = s.written ∧ t.sinkCap = s.sinkCap) ∨
    (∃ n, t.written = [] ∧ t.sinkCap = some n) ∨
    (∃ cap v, s.sinkCap = some cap ∧ s.cursor < cap ∧ t.written = Memory.write s.written s.cursor v ∧
      t.sinkCap = some cap) := by
  rcases exec_next_cases h with ⟨f, rfl⟩ | ⟨d, rfl, hi, rfl⟩ | ⟨rfl, hi, rfl⟩ | ⟨d, rfl, hi, rfl⟩ | ⟨d, rfl, hi, rfl⟩ |
    ⟨cap, rfl, hi, hcap, hlt, rfl⟩ | ⟨rfl, rfl⟩ | ⟨rfl, rfl⟩ | ⟨n, rfl, rfl⟩ | ⟨rfl, hi, rfl⟩ | ⟨r, rfl, hr, rfl⟩
  · exact .inl ⟨rfl, rfl⟩
  · exact .inl ⟨rfl, rfl⟩
  · exact .inl ⟨rfl, rfl⟩
  · exact .inl ⟨rfl, rfl⟩
  · exact .inl ⟨rfl, rfl⟩
  · exact .inr (.inr ⟨cap, s.chip.advance.sample, hcap, hlt, rfl, hcap⟩)
  · exact .inl ⟨rfl, rfl⟩
  · exact .inl ⟨rfl, rfl⟩
  · exact .inr (.inl ⟨n, rfl, rfl⟩)
  · exact .inl ⟨rfl, rfl⟩
  · exact .inl ⟨rfl, rfl⟩

/-- A step that answers a next state waits, or executes a command with the queue moved on (R25, R109). -/
theorem step_next_cases {s t : State} (h : step s = .next t) :
    t = s ∨ ∃ i rest, exec i (s.setPending rest) = .next t := by
  unfold step at h
  split at h
  · cases h
  split at h
  · cases h
  unfold runNext at h
  split at h
  · exact .inl (Host.Outcome.next.inj h).symm
  unfold runPresented at h
  split at h
  · exact .inr ⟨_, _, h⟩
  · cases h

/-- A property of the state that each of a program's commands keeps holds where the program's run ends (R37). -/
theorem execAll_keeps {P : State → Prop} {p : List Instr}
    (hstep : ∀ i ∈ p, ∀ s t, P s → exec i s = .next t → P t) {s : State} (hs : P s) : P (execAll p s) := by
  induction p generalizing s with
  | nil => exact hs
  | cons i p ih =>
    by_cases hm : (s.fault.isSome || s.refusal.isSome) = true
    · rwa [execAll_of_marked hm]
    · obtain ⟨t, ht⟩ := exec_total i s
      rw [execAll_cons hm ht]
      exact ih (fun j hj => hstep j (.tail _ hj)) (hstep i (.head _) s t hs ht)

/-- A run that begins with INIT goes on from the reset chip (R91). -/
theorem execAll_init_cons {s : State} (hf : s.fault = none) (hr : s.refusal = none) (p : List Instr) :
    execAll (.init :: p) s = execAll p (s.startChip .reset) :=
  execAll_cons (by simp [hf, hr]) rfl

/-! ### The masks and the LFSR (R10, R73) -/

theorem Chip.reset_sound : Chip.reset.Sound := ⟨by unfold Chip.masksKept; decide, by decide⟩

/-- The stored byte keeps its register's mask (R13). -/
theorem Chip.masksKept_of_reg {c c' : Chip} {r : RegIndex} {d : Byte} (h : c.masksKept)
    (hreg : ∀ r', c'.reg r' = if r' = r then d &&& regMask r else c.reg r') : c'.masksKept := by
  intro r'
  rw [hreg]
  split
  · next e => rw [e, BitVec.and_assoc, BitVec.and_not_self]; exact BitVec.and_zero
  · exact h r'

/-- Every register and the LFSR are fields of the record's table (R10). -/
theorem reg_mem_recordFields (r : RegIndex) : RecordField.reg r ∈ recordFields := by
  revert r; decide

theorem noiseShift_mem_recordFields : RecordField.noiseShift ∈ recordFields := by decide

theorem chipOfRecord_reg (r : Record) (i : RegIndex) :
    (chipOfRecord r).reg i = BitVec.ofNat 8 (fieldValue r (.reg i)) := by
  simp [Chip.reg, chipOfRecord, fieldValue]

/-- R95's checks (2) and (3) are the invariant: a record that LOAD admits holds a sound chip. -/
theorem chipOfRecord_sound {r : Record} (h : firstBadField r = none) : (chipOfRecord r).Sound := by
  rw [firstBadField_none] at h
  constructor
  · intro i
    obtain ⟨-, hmask, -⟩ := (fieldAdmitted_iff r _).mp (h _ (reg_mem_recordFields i))
    rw [chipOfRecord_reg]
    simpa [maskKept] using hmask i rfl
  · obtain ⟨hwidth, -, hne⟩ := (fieldAdmitted_iff r _).mp (h _ noiseShift_mem_recordFields)
    intro h0
    have hzero : r.noiseShift % 2 ^ 17 = 0 := by simpa [chipOfRecord] using congrArg BitVec.toNat h0
    exact hne rfl ((Nat.mod_eq_of_lt hwidth).symm.trans hzero)

/-- Every change of the chip record leaves it sound. -/
theorem ChipMove.sound {s : State} {i : Instr} {c : Chip} (h : ChipMove s i c)
    (hs : s.initialized = true → s.chip.Sound) : c.Sound := by
  cases h with
  | sel d hi hd => exact hs hi
  | wr d hi =>
    obtain ⟨hmasks, hshift⟩ := hs hi
    exact ⟨Chip.masksKept_of_reg hmasks fun _ => Chip.writeReg_reg .., by simpa [Chip.writeReg] using hshift⟩
  | wio d hi =>
    obtain ⟨hmasks, hshift⟩ := hs hi
    exact ⟨Chip.masksKept_of_reg hmasks fun _ => Chip.store_reg .., hshift⟩
  | cyc hi =>
    obtain ⟨hmasks, hshift⟩ := hs hi
    exact ⟨hmasks, noiseStep_shift_ne_zero hshift⟩
  | init => exact Chip.reset_sound
  | load r hr => exact chipOfRecord_sound hr

/-- Every command keeps the buffer in canonical form inside its capacity (R23, R89). -/
theorem exec_sinkSound {i : Instr} {s t : State} (hs : s.sinkSound) (h : exec i s = .next t) : t.sinkSound := by
  obtain ⟨hwf, hcontents⟩ := hs
  unfold State.sinkSound
  rcases exec_sink_cases h with ⟨hw, hc⟩ | ⟨n, hw, hc⟩ | ⟨cap, v, hcap, hlt, hw, hc⟩
  · rw [hw, hc]
    exact ⟨hwf, hcontents⟩
  · rw [hw, hc]
    exact ⟨Memory.wf_nil, fun _ _ hread => nomatch hread⟩
  · rw [hw, hc]
    rw [hcap] at hcontents
    refine ⟨Memory.wf_write _ _ _ hwf, fun j w hread => ?_⟩
    rw [Memory.read_write] at hread
    split at hread
    · next e => rwa [e]
    · exact hcontents j w hread

/-- Every command keeps the state's invariant. -/
theorem exec_sound {i : Instr} {s t : State} (hs : s.Sound) (h : exec i s = .next t) : t.Sound := by
  obtain ⟨hchip, hsink⟩ := hs
  refine ⟨?_, exec_sinkSound hsink h⟩
  rcases exec_chip_cases h with ⟨hc, hi⟩ | hm
  · rwa [hc, hi]
  · exact fun _ => hm.sound hchip

/-- Settles O44: a step waits or executes a command, and every command keeps the invariant. -/
theorem soundIsKept : Obligations.SoundIsKept := by
  intro s t hs h
  rcases step_next_cases h with rfl | ⟨i, rest, hexec⟩
  · exact hs
  · exact exec_sound (s := s.setPending rest) hs hexec

/-- Settles O45: the reset chip is sound, a launch holds no chip record, and both buffers are empty. -/
theorem resetIsSound : Obligations.ResetIsSound :=
  ⟨⟨fun _ => Chip.reset_sound, Memory.wf_nil, rfl⟩, fun _ => ⟨(nomatch ·), Memory.wf_nil, rfl⟩⟩

/-! ### The consistency of the cached fields (R21) -/

/-- The part of R21's consistency that is about the fields derivation `d` writes. -/
def Derivation.Settled (c : Chip) : Derivation → Prop
  | .tone ch =>
    (c.channel ch).period = tonePeriodOf (c.reg (toneLowRegister ch)) (c.reg (toneHighRegister ch)) ∨
      ((c.channel ch).period = 0 ∧ c.reg (toneLowRegister ch) = 0 ∧ c.reg (toneHighRegister ch) = 0)
  | .noise => c.noise.period = noisePeriodOf (c.reg 6) ∨ (c.noise.period = 0 ∧ c.reg 6 = 0)
  | .mixer =>
    ∀ ch, (c.channel ch).toneDisabled = toneDisableBit (c.reg 7) ch ∧
      (c.channel ch).noiseDisabled = noiseDisableBit (c.reg 7) ch
  | .level ch =>
    (c.channel ch).amplitude = amplitudeOf (c.reg (levelRegister ch)) ∧
      (c.channel ch).envMode = envModeBit (c.reg (levelRegister ch))
  | .envPeriod => c.env.period = envPeriodOf (c.reg 11) (c.reg 12)
  | .shape => True
  | .nothing => True

/-- R21's consistency is that of every derivation. -/
theorem Chip.consistent_iff (c : Chip) : c.consistent ↔ ∀ d, Derivation.Settled c d := by
  constructor
  · rintro ⟨htone, hnoise, htoneDis, hnoiseDis, hamp, hmode, henv⟩ d
    cases d with
    | tone ch => exact htone ch
    | noise => exact hnoise
    | mixer => exact fun ch => ⟨htoneDis ch, hnoiseDis ch⟩
    | level ch => exact ⟨hamp ch, hmode ch⟩
    | envPeriod => exact henv
    | shape => trivial
    | nothing => trivial
  · intro h
    exact ⟨fun ch => h (.tone ch), h .noise, fun ch => (h .mixer ch).1, fun ch => (h .mixer ch).2,
      fun ch => (h (.level ch)).1, fun ch => (h (.level ch)).2, h .envPeriod⟩

/-- A derivation settles its own fields. -/
theorem Derivation.settled_derive (d : Derivation) (c : Chip) : d.Settled (derive d c) := by
  cases d <;> simp [Derivation.Settled]

/-- A derivation leaves what the other derivations settle. -/
theorem Derivation.settled_derive_of_ne {d e : Derivation} (hne : d ≠ e) {c : Chip} (h : e.Settled c) :
    e.Settled (derive d c) := by
  cases e
  case shape => trivial
  case nothing => trivial
  all_goals simpa [Derivation.Settled, hne] using h

theorem derivationOf_toneLowRegister (ch : Channel) : derivationOf (toneLowRegister ch) = .tone ch := by
  cases ch <;> rfl

theorem derivationOf_toneHighRegister (ch : Channel) : derivationOf (toneHighRegister ch) = .tone ch := by
  cases ch <;> rfl

theorem derivationOf_levelRegister (ch : Channel) : derivationOf (levelRegister ch) = .level ch := by
  cases ch <;> rfl

/-- A store is not seen by a register with another derivation. -/
theorem Chip.store_reg_of_derivationOf_ne {r r' : RegIndex} (h : derivationOf r ≠ derivationOf r') (c : Chip)
    (v : Byte) : (c.store r v).reg r' = c.reg r' := by
  rw [Chip.store_reg, if_neg]
  rintro rfl
  exact h rfl

/-- A store leaves what the derivations other than its register's settle: each reads its own registers alone. -/
theorem Derivation.settled_store_of_ne {r : RegIndex} {e : Derivation} (hne : derivationOf r ≠ e) {c : Chip}
    (v : Byte) (h : e.Settled c) : e.Settled (c.store r v) := by
  have hreg {r' : RegIndex} (hr' : derivationOf r' = e) : (c.store r v).reg r' = c.reg r' :=
    Chip.store_reg_of_derivationOf_ne (by rwa [hr']) c v
  cases e with
  | tone ch =>
    simpa only [Derivation.Settled, Chip.store_channel, hreg (derivationOf_toneLowRegister ch),
      hreg (derivationOf_toneHighRegister ch)] using h
  | noise => simpa only [Derivation.Settled, Chip.store_noise, hreg (r' := 6) rfl] using h
  | mixer => simpa only [Derivation.Settled, Chip.store_channel, hreg (r' := 7) rfl] using h
  | level ch =>
    simpa only [Derivation.Settled, Chip.store_channel, hreg (derivationOf_levelRegister ch)] using h
  | envPeriod => simpa only [Derivation.Settled, Chip.store_env, hreg (r' := 11) rfl, hreg (r' := 12) rfl] using h
  | shape => trivial
  | nothing => trivial

/-- A register write settles its register's derivation and leaves the others settled. -/
theorem Chip.writeReg_consistent {c : Chip} (h : c.consistent) (r : RegIndex) (v : Byte) :
    (c.writeReg r v).consistent := by
  rw [Chip.consistent_iff] at h ⊢
  intro e
  by_cases he : derivationOf r = e
  · subst he
    exact Derivation.settled_derive _ _
  · exact Derivation.settled_derive_of_ne he (Derivation.settled_store_of_ne he v (h e))

/-- The IO register has no derivation, so WIO's bare store is consistent (R62). -/
theorem Chip.store_ioRegister_consistent {c : Chip} (h : c.consistent) (v : Byte) :
    (c.store ioRegister v).consistent := Chip.writeReg_consistent h ioRegister v

/-- A cycle writes no cached field and no register (R84). -/
theorem Chip.advance_consistent {c : Chip} (h : c.consistent) : c.advance.consistent := by
  simpa [Chip.consistent] using h

theorem Chip.reset_consistent : Chip.reset.consistent := by
  rw [Chip.consistent_iff]
  intro d
  cases d with
  | tone ch => cases ch <;> exact .inr ⟨rfl, rfl, rfl⟩
  | noise => exact .inr ⟨rfl, rfl⟩
  | mixer => intro ch; cases ch <;> exact ⟨rfl, rfl⟩
  | level ch => cases ch <;> exact ⟨rfl, rfl⟩
  | envPeriod => rfl
  | shape => trivial
  | nothing => trivial

/-- Every change of the chip record but LOAD's keeps the consistency. -/
theorem ChipMove.consistent {s : State} {i : Instr} {c : Chip} (h : ChipMove s i c) (hl : ∀ r, i ≠ .load r)
    (hs : s.chip.consistent) : c.consistent := by
  cases h with
  | sel d hi hd => exact hs
  | wr d hi => exact Chip.writeReg_consistent hs _ d
  | wio d hi => exact Chip.store_ioRegister_consistent hs d
  | cyc hi => exact Chip.advance_consistent hs
  | init => exact Chip.reset_consistent
  | load r hr => exact absurd rfl (hl r)

/-- Settles O55, by the six ways a command can change the chip record. -/
theorem everyCommandButLoadKeepsConsistency : Obligations.EveryCommandButLoadKeepsConsistency :=
  ⟨Chip.reset_consistent, fun _ _ _ hl hs => exec_keeps_chip hs fun _ hm => hm.consistent hl hs⟩

/-- Settles O46: INIT leaves a consistent chip, and the commands after it keep it so. -/
theorem derivedFieldsStayConsistent : Obligations.DerivedFieldsStayConsistent := by
  intro p s hf hr hl
  rw [execAll_init_cons hf hr]
  exact execAll_keeps (P := fun s => s.chip.consistent)
    (fun i hi s t => everyCommandButLoadKeepsConsistency.2 i s t (hl i hi)) Chip.reset_consistent

/-! ### The counters' ranges (R16) -/

theorem Chip.reset_countersInRange : Chip.reset.countersInRange :=
  ⟨fun ch => by cases ch <;> decide, by decide, by decide⟩

/-- A register write changes no counter but the envelope's, and that one to 0 (R60, R63). -/
theorem Chip.writeReg_countersInRange {c : Chip} (h : c.countersInRange) (r : RegIndex) (v : Byte) :
    (c.writeReg r v).countersInRange := by
  obtain ⟨htone, hnoise, henv⟩ := h
  refine ⟨by simpa [Chip.writeReg] using htone, by simpa [Chip.writeReg] using hnoise, ?_⟩
  by_cases hd : derivationOf r = .shape
  · simp [Chip.writeReg, hd]
  · simpa [Chip.writeReg, hd] using henv

/-- A cycle leaves every counter below its threshold (R64, R70, R78). -/
theorem Chip.advance_countersInRange (c : Chip) : c.advance.countersInRange :=
  ⟨fun ch => by rw [Chip.advance_channel]; exact toneStep_counter_le _, noiseStep_counter_le _,
    envStep_counter_le _ _⟩

/-- Every change of the chip record but LOAD's keeps the counters in range. -/
theorem ChipMove.countersInRange {s : State} {i : Instr} {c : Chip} (h : ChipMove s i c) (hl : ∀ r, i ≠ .load r)
    (hs : s.chip.countersInRange) : c.countersInRange := by
  cases h with
  | sel d hi hd => exact hs
  | wr d hi => exact Chip.writeReg_countersInRange hs _ d
  | wio d hi => exact hs
  | cyc hi => exact Chip.advance_countersInRange _
  | init => exact Chip.reset_countersInRange
  | load r hr => exact absurd rfl (hl r)

/-- Settles O56, by the six ways a command can change the chip record. -/
theorem everyCommandButLoadKeepsCounterRanges : Obligations.EveryCommandButLoadKeepsCounterRanges :=
  ⟨Chip.reset_countersInRange, fun _ _ _ hl hs => exec_keeps_chip hs fun _ hm => hm.countersInRange hl hs⟩

/-- Settles O47: INIT leaves the counters in range, and the commands after it keep them there. -/
theorem countersStayInRange : Obligations.CountersStayInRange := by
  intro p s hf hr hl
  rw [execAll_init_cons hf hr]
  exact execAll_keeps (P := fun s => s.chip.countersInRange)
    (fun i hi s t => everyCommandButLoadKeepsCounterRanges.2 i s t (hl i hi)) Chip.reset_countersInRange

/-! ### Who writes the latch and the flags (R14, R17) -/

/-- The latch holds SEL's whole operand when that is at most 15 (R52). -/
theorem toNat_extractLsb'_of_le {d : Byte} (h : d.toNat ≤ 15) : (d.extractLsb' 0 4).toNat = d.toNat := by
  simp only [BitVec.extractLsb'_toNat, Nat.shiftRight_zero]
  omega

/-- Settles O48, by the six ways a command can change the chip record: the others leave the latch. -/
theorem onlySelInitAndLoadMoveTheLatch : Obligations.OnlySelInitAndLoadMoveTheLatch := by
  intro i s t h hne
  rcases exec_chip_cases h with ⟨hc, -⟩ | hm
  · exact absurd (by rw [hc]) hne
  · generalize t.chip = c at hm hne
    cases hm with
    | sel d hi hd => exact .inl ⟨d, rfl, toNat_extractLsb'_of_le hd⟩
    | wr d hi => exact absurd (Chip.writeReg_latch ..) hne
    | wio d hi => exact absurd (Chip.store_latch ..) hne
    | cyc hi => exact absurd (Chip.advance_latch _) hne
    | init => exact .inr (.inl ⟨rfl, rfl⟩)
    | load r hr => exact .inr (.inr ⟨r, rfl⟩)

/-- The registers with the derivations that write flags: 7, 8 to 10, and 13 (R12, R17). -/
theorem derivationOf_eq_mixer {r : RegIndex} (h : derivationOf r = .mixer) : r = 7 := by
  revert r; decide

theorem derivationOf_eq_level {r : RegIndex} {ch : Channel} (h : derivationOf r = .level ch) :
    r.toNat = 8 + ch.index := by
  revert r; cases ch <;> decide

theorem derivationOf_eq_shape {r : RegIndex} (h : derivationOf r = .shape) : r = 13 := by
  revert r; decide

/-- Settles O49: a cycle moves phases and the segment alone, a register write the flags of its derivation, and no other
change of the chip record but INIT's and LOAD's a flag. -/
theorem eachFlagHasItsWriters : Obligations.EachFlagHasItsWriters := by
  intro i s t h hinit hload
  rcases exec_chip_cases h with ⟨hc, -⟩ | hm
  · simp [hc]
  · generalize t.chip = c at hm
    cases hm with
    | sel d hi hd => simp
    | wr d hi =>
      refine ⟨fun ch hne => ?_, fun ch hne => ⟨d, rfl, derivationOf_eq_mixer ?_⟩,
        fun ch hne => ⟨d, rfl, derivationOf_eq_level ?_⟩, fun hne => .inr ⟨d, rfl, derivationOf_eq_shape ?_⟩⟩
      · simp [Chip.writeReg] at hne
      all_goals
        by_contra hd
        simp [Chip.writeReg, hd] at hne
    | wio d hi => simp
    | cyc hi => simp
    | init => exact absurd rfl hinit
    | load r hr => exact absurd rfl (hload r)

/-! ### The register file (R12, R13) -/

/-- The latch value of a register's index operand is the register (R52). -/
theorem extractLsb'_zeroExtend (r : RegIndex) : (r.zeroExtend 8 : Byte).extractLsb' 0 4 = r := by
  revert r; decide

/-- The model's masks are the printed ones (R5, R12; log 11). -/
theorem regMask_toNat (r : RegIndex) : (regMask r).toNat = maskTable.getD r.toNat 0 := by
  revert r; decide

/-- A running state executes a program's first command, then the rest from the state it left (R37). -/
theorem State.Running.execAll_cons {i : Instr} {s t : State} (hs : s.Running) (p : List Instr)
    (h : exec i s = .next t) : execAll (i :: p) s = execAll p t := by
  obtain ⟨-, hf, hr⟩ := hs
  exact Machine.execAll_cons (by simp [hf, hr]) h

/-- A new chip record leaves a running state running. -/
theorem State.Running.setChip {s : State} (hs : s.Running) (c : Chip) : (s.setChip c).Running := hs

/-- SEL of a register on a state that holds a chip record (R52). -/
theorem exec_sel_of_init {s : State} (hi : s.initialized = true) (r : RegIndex) :
    exec (.sel (r.zeroExtend 8)) s = .next (s.setChip (s.chip.setLatch r)) := by
  have hle : (r.zeroExtend 8 : Byte).toNat ≤ 15 := by
    have := r.isLt
    rw [BitVec.toNat_setWidth]
    omega
  rw [exec, execSel, requireInit_of_init _ _ hi, indexOperand_of_le hle, extractLsb'_zeroExtend]

/-- WR on a state that holds a chip record (R54). -/
theorem exec_wr_of_init {s : State} (hi : s.initialized = true) (d : Byte) :
    exec (.wr d) s = .next (s.setChip (s.chip.writeReg s.chip.latch d)) := requireInit_of_init _ _ hi

/-- RD on a state that holds a chip record (R53). -/
theorem exec_rd_of_init {s : State} (hi : s.initialized = true) :
    exec .rd s = .next (s.output (.byte s.chip.latched)) := requireInit_of_init _ _ hi

/-- What SEL, WR, RD leave of a running state: the write, and its masked value returned (R13). -/
theorem execAll_sel_wr_rd {s : State} (hs : s.Running) (r : RegIndex) (d : Byte) :
    execAll [.sel (r.zeroExtend 8), .wr d, .rd] s =
      (s.setChip ((s.chip.setLatch r).writeReg r d)).output (.byte (d &&& regMask r)) := by
  have hsel := exec_sel_of_init hs.1 r
  have hwr := exec_wr_of_init (hs.setChip (s.chip.setLatch r)).1 d
  have hrd := exec_rd_of_init (hs.setChip ((s.chip.setLatch r).writeReg r d)).1
  have hread : ((s.chip.setLatch r).writeReg r d).latched = d &&& regMask r := by simp [Chip.latched]
  rw [State.setChip_chip, hread] at hrd
  calc execAll [.sel (r.zeroExtend 8), .wr d, .rd] s
    _ = execAll [.wr d, .rd] (s.setChip (s.chip.setLatch r)) := hs.execAll_cons _ hsel
    _ = execAll [.rd] (s.setChip ((s.chip.setLatch r).writeReg r d)) := (hs.setChip _).execAll_cons _ hwr
    _ = (s.setChip ((s.chip.setLatch r).writeReg r d)).output (.byte (d &&& regMask r)) :=
      (hs.setChip _).execAll_cons [] hrd

/-- Settles O19, by the one state that the three commands leave. -/
theorem writtenRegisterReadsBackMasked : Obligations.WrittenRegisterReadsBackMasked := by
  intro r d s hs
  rw [execAll_sel_wr_rd hs]
  exact ⟨rfl, fun r' => Chip.writeReg_reg .., hs, regMask_toNat r⟩

/-! ### The buffer as data (R23) -/

/-- A buffer that rises from a bound holds no sample up to the bound. -/
theorem Memory.read_of_le {m : Memory} {low i : Nat} (h : Memory.risesFrom (some low) m = true) (hi : i ≤ low) :
    Memory.read m i = none := by
  induction m generalizing low with
  | nil => rfl
  | cons p m ih =>
    obtain ⟨j, w⟩ := p
    simp only [Memory.risesFrom, Bool.and_eq_true, decide_eq_true_eq] at h
    obtain ⟨hlt, hrest⟩ := h
    rw [Memory.read, if_neg (by omega), ih hrest (by omega)]

/-- A buffer that rises from a bound is in canonical form. -/
theorem Memory.wf_of_risesFrom {m : Memory} {low : Nat} (h : Memory.risesFrom (some low) m = true) :
    Memory.wf m = true := by
  cases m with
  | nil => rfl
  | cons p m =>
    simp only [Memory.risesFrom, Bool.and_eq_true] at h
    exact h.2

/-- The first entry of a buffer in canonical form is its lowest index. -/
theorem Memory.head_le_of_read {m : Memory} {j i : Nat} {w v : Sample} (hwf : Memory.wf ((j, w) :: m) = true)
    (hread : Memory.read ((j, w) :: m) i = some v) : j ≤ i := by
  by_contra hlt
  have hrises : Memory.risesFrom (some i) ((j, w) :: m) = true := by
    simp only [Memory.risesFrom, Bool.and_eq_true, decide_eq_true_eq]
    exact ⟨by omega, hwf⟩
  rw [Memory.read_of_le hrises le_rfl] at hread
  cases hread

theorem Memory.read_head (j : Nat) (w : Sample) (m : Memory) : Memory.read ((j, w) :: m) j = some w := by
  simp [Memory.read]

/-- Settles O51, by induction on the first buffer: both heads are the lowest index that reads a sample, and the tails
read none there. -/
theorem equalBuffersAreEqualData : Obligations.EqualBuffersAreEqualData := by
  intro m
  induction m with
  | nil =>
    intro m' _ _ h
    cases m' with
    | nil => rfl
    | cons p m' =>
      have := (h p.1).trans (Memory.read_head p.1 p.2 m')
      cases this
  | cons p m ih =>
    obtain ⟨j, w⟩ := p
    intro m' hwf hwf' h
    cases m' with
    | nil =>
      have := (h j).symm.trans (Memory.read_head j w m)
      cases this
    | cons p' m' =>
      obtain ⟨j', w'⟩ := p'
      have hjj' : j = j' := le_antisymm
        (Memory.head_le_of_read hwf ((h j').trans (Memory.read_head ..)))
        (Memory.head_le_of_read hwf' ((h j).symm.trans (Memory.read_head ..)))
      subst hjj'
      have hww' : w = w' := by simpa [Memory.read_head] using h j
      have htails (i : Nat) : Memory.read m i = Memory.read m' i := by
        by_cases hi : i = j
        · rw [hi, Memory.read_of_le hwf le_rfl, Memory.read_of_le hwf' le_rfl]
        · simpa [Memory.read, hi] using h i
      rw [hww', ih m' (Memory.wf_of_risesFrom hwf) (Memory.wf_of_risesFrom hwf') htails]

end Sys2Proof.Machine
end

section
/-! Several chips (R43, R107): the rule for a step of one chip, one equation per answer of that chip's
own step, and the independence of the chips. -/

namespace Sys2Proof.Machine

open Sys2Proof

section
variable {k : Nat} {chips : Chips} {s : State}

/-- A chip whose own step answers a next state has that state put in its place. -/
theorem stepInstance_of_next {t : State} (hk : chips[k]? = some s) (h : step s = .next t) :
    stepInstance k chips = .next (chips.set k t) := by
  simp only [stepInstance, hk, h]

/-- A chip whose own step answers a fault answers that fault. -/
theorem stepInstance_of_fault {f : Fault} (hk : chips[k]? = some s) (h : step s = .fault f) :
    stepInstance k chips = .fault f := by
  simp only [stepInstance, hk, h]

/-- A chip whose own step refuses answers that refusal. -/
theorem stepInstance_of_refused {r : Refusal} (hk : chips[k]? = some s) (h : step s = .refused r) :
    stepInstance k chips = .refused r := by
  simp only [stepInstance, hk, h]

end

/-- Settles O54, by the equation of `stepInstance` for each answer of the chip's own step; after a next state, the
list differs in the one place that was set. -/
theorem instancesAreIndependent : Obligations.InstancesAreIndependent := by
  intro k chips s hk
  obtain ⟨hlt, -⟩ := List.getElem?_eq_some_iff.mp hk
  refine ⟨fun t h => ⟨chips.set k t, stepInstance_of_next hk h, List.length_set, ?_, fun j hj => ?_⟩,
    fun _ => stepInstance_of_fault hk, fun _ => stepInstance_of_refused hk⟩
  · exact List.getElem?_set_self hlt
  · exact List.getElem?_set_ne hj.symm

end Sys2Proof.Machine
end

section
/-! PROOFS. The encoding (30_encoding.md). Two laws carry the statements about words: the decoder answers a command
exactly for the command's own word, with what travels beside it (`decode_eq_ok_iff`), and a word spells some command
exactly when it passes R48's checks (`exists_decode_iff_wf`). -/

namespace Sys2Proof

open Sys2Proof.Machine Sys2Proof.Rules Sys2Proof.Laws.EncodedWord

/-! ### The fields of a word (R44) -/

theorem Word.op_toNat (w : Word) : (Word.op w).toNat = w.toNat / 4096 := by
  rw [Word.op, BitVec.extractLsb'_toNat, Nat.shiftRight_eq_div_pow]
  omega

theorem Word.z_toNat (w : Word) : (Word.z w).toNat = w.toNat / 256 % 16 := by
  rw [Word.z, BitVec.extractLsb'_toNat, Nat.shiftRight_eq_div_pow]

theorem Word.d_toNat (w : Word) : (Word.d w).toNat = w.toNat % 256 := by
  rw [Word.d, BitVec.extractLsb'_toNat, Nat.shiftRight_zero]

theorem Word.assemble_toNat (op : BitVec 4) (d : Byte) :
    (Word.assemble op d).toNat = op.toNat * 4096 + d.toNat := by
  have hop := Word.op_toNat (Word.assemble op d)
  have hz := Word.z_toNat (Word.assemble op d)
  have hd := Word.d_toNat (Word.assemble op d)
  rw [assemble_op] at hop
  rw [assemble_z, show (0 : BitVec 4).toNat = 0 from rfl] at hz
  rw [assemble_d] at hd
  omega

/-- A word whose `z` field is clear is assembled of its other two fields. -/
theorem Word.eq_assemble {w : Word} (op : BitVec 4) (hz : Word.z w = 0) (hop : (Word.op w).toNat = op.toNat) :
    w = Word.assemble op (Word.d w) := by
  have hz' : w.toNat / 256 % 16 = 0 := by rw [← Word.z_toNat, hz]; rfl
  rw [Word.op_toNat] at hop
  apply BitVec.eq_of_toNat_eq
  rw [Word.assemble_toNat, Word.d_toNat]
  omega

/-! ### The decoder's answers (R45 to R48) -/

/-- The operands of a command that travel beside its word are those presented (R47). -/
def Instr.OperandsBeside (c : HostCommand) : Instr → Prop
  | .setbuf n => n = c.capacity
  | .load r => r = c.record
  | _ => True

/-- An operation without a `d` operand is answered only for its one word (R45, R48). -/
theorem word_of_decodePlain {w : Word} {i j : Instr} (op : BitVec 4) (hz : Word.z w = 0)
    (hop : (Word.op w).toNat = op.toNat) (h : decodePlain w i = .ok j) : w = Word.assemble op 0 ∧ i = j := by
  unfold decodePlain at h
  split at h
  case isTrue hd =>
    have hw := Word.eq_assemble op hz hop
    rw [hd] at hw
    exact ⟨hw, Except.ok.inj h⟩
  case isFalse => cases h

/-- A command that the decoder answers has the presented word for its own, and the presented operands. -/
theorem word_of_decode {c : HostCommand} {i : Instr} (h : decode c = .ok i) :
    c.word = i.word ∧ i.OperandsBeside c := by
  unfold decode at h
  split at h
  case isFalse => cases h
  split at h
  case isFalse => cases h
  case isTrue.isTrue hz =>
    unfold decodeOp at h
    split at h
    case h_1 hop => cases h; exact ⟨Word.eq_assemble 1 hz hop, trivial⟩
    case h_2 hop => obtain ⟨hw, rfl⟩ := word_of_decodePlain 2 hz hop h; exact ⟨hw, trivial⟩
    case h_3 hop => cases h; exact ⟨Word.eq_assemble 3 hz hop, trivial⟩
    case h_4 hop => cases h; exact ⟨Word.eq_assemble 4 hz hop, trivial⟩
    case h_5 hop => obtain ⟨hw, rfl⟩ := word_of_decodePlain 5 hz hop h; exact ⟨hw, trivial⟩
    case h_6 hop => obtain ⟨hw, rfl⟩ := word_of_decodePlain 6 hz hop h; exact ⟨hw, trivial⟩
    case h_7 hop => obtain ⟨hw, rfl⟩ := word_of_decodePlain 7 hz hop h; exact ⟨hw, trivial⟩
    case h_8 hop => obtain ⟨hw, rfl⟩ := word_of_decodePlain 8 hz hop h; exact ⟨hw, rfl⟩
    case h_9 hop => obtain ⟨hw, rfl⟩ := word_of_decodePlain 9 hz hop h; exact ⟨hw, trivial⟩
    case h_10 hop => obtain ⟨hw, rfl⟩ := word_of_decodePlain 10 hz hop h; exact ⟨hw, rfl⟩
    case h_11 => cases h

/-- Settles O12: the decoder undoes the encoder (`decode_encode`), and answers a command for that command's own word
alone. -/
theorem decodeOfEncodeIsIdentity : Obligations.DecodeOfEncodeIsIdentity :=
  ⟨decode_encode, fun _ _ h => (word_of_decode h).1.symm⟩

/-- The word of a command passes the checks of R48, whatever is presented beside it. -/
theorem wf_of_word {c : HostCommand} {i : Instr} (hw : c.word = i.word) : HostCommand.wf c = true := by
  rw [HostCommand.wf, hw]
  exact (encode_wordPasses i).1

/-- The decoder reads nothing of what travels beside a word but the operands of the command it spells (R47). -/
theorem decode_of_word {c : HostCommand} {i : Instr} (hw : c.word = i.word) (hi : i.OperandsBeside c) :
    decode c = .ok i := by
  rw [decode_of_wf (wf_of_word hw)]
  cases i <;> simp [decodeOp, decodePlain, hw, Instr.word, assemble_op, assemble_d]
  case setbuf => exact hi.symm
  case load => exact hi.symm

/-- The decoder answers a command exactly for the command's own word and operands (R45, R46, R47). -/
theorem decode_eq_ok_iff {c : HostCommand} {i : Instr} :
    decode c = .ok i ↔ c.word = i.word ∧ i.OperandsBeside c :=
  ⟨word_of_decode, fun h => decode_of_word h.1 h.2⟩

/-! ### Which words are valid (R48, R49) -/

/-- An operation without a `d` operand is answered when R48's check of `d` passes. -/
theorem decodePlain_of_dataAllowed {w : Word} {i : Instr} (op : BitVec 4) (hop : (Word.op w).toNat = op.toNat)
    (hplain : (op == 1 || op == 3 || op == 4) = false) (h : Word.dataAllowed w = true) :
    decodePlain w i = .ok i := by
  rw [Word.dataAllowed, Word.takesData, BitVec.eq_of_toNat_eq hop, hplain, Bool.false_or, beq_iff_eq] at h
  rw [decodePlain, if_pos h]

/-- A word spells a command exactly when it passes the checks of R48. -/
theorem exists_decode_iff_wf {c : HostCommand} : (∃ i, decode c = .ok i) ↔ HostCommand.wf c = true := by
  constructor
  · rintro ⟨i, h⟩
    exact wf_of_word (word_of_decode h).1
  · intro h
    rw [decode_of_wf h]
    simp only [HostCommand.wf, Word.wf, Word.opAssigned, Bool.and_eq_true, decide_eq_true_eq] at h
    obtain ⟨⟨hassigned, -⟩, hd⟩ := h
    rw [decodeOp]
    generalize hop : (Word.op c.word).toNat = code at hassigned ⊢
    obtain ⟨hlo, hhi⟩ := hassigned
    interval_cases code
    · exact ⟨_, rfl⟩
    · exact ⟨_, decodePlain_of_dataAllowed 2 hop rfl hd⟩
    · exact ⟨_, rfl⟩
    · exact ⟨_, rfl⟩
    · exact ⟨_, decodePlain_of_dataAllowed 5 hop rfl hd⟩
    · exact ⟨_, decodePlain_of_dataAllowed 6 hop rfl hd⟩
    · exact ⟨_, decodePlain_of_dataAllowed 7 hop rfl hd⟩
    · exact ⟨_, decodePlain_of_dataAllowed 8 hop rfl hd⟩
    · exact ⟨_, decodePlain_of_dataAllowed 9 hop rfl hd⟩
    · exact ⟨_, decodePlain_of_dataAllowed 10 hop rfl hd⟩

/-- R48's checks in the arithmetic of the word's value. -/
theorem Word.wf_iff (w : Word) :
    Word.wf w = true ↔ (1 ≤ w.toNat / 4096 ∧ w.toNat / 4096 ≤ 10) ∧ w.toNat / 256 % 16 = 0 ∧
      (w.toNat / 4096 ∈ [1, 3, 4] ∨ w.toNat % 256 = 0) := by
  simp [Word.wf, Word.opAssigned, Word.zClear, Word.dataAllowed, Word.takesData, ← BitVec.toNat_inj, Word.op_toNat,
    Word.z_toNat, Word.d_toNat, and_assoc, or_assoc]

/-- The fields of the valid words (R45, R48): SEL, WR and WIO with every operand, the seven others with none. -/
def validFields : Finset (BitVec 4 × Byte) :=
  {1, 3, 4} ×ˢ Finset.univ ∪ {2, 5, 6, 7, 8, 9, 10} ×ˢ {0}

theorem validFields_card : validFields.card = 775 := by
  have hbytes : (Finset.univ : Finset Byte).card = 256 := by
    rw [Finset.card_univ, ← FinEnum.card_eq_fintypeCard]
    rfl
  have hdisjoint : Disjoint ({1, 3, 4} : Finset (BitVec 4)) {2, 5, 6, 7, 8, 9, 10} := by decide
  rw [validFields, Finset.card_union_of_disjoint (Finset.disjoint_product.mpr (.inl hdisjoint)),
    Finset.card_product, Finset.card_product, hbytes]
  rfl

/-- An assembled word is valid exactly when its fields are (R48). -/
theorem assemble_wf_iff (op : BitVec 4) (d : Byte) :
    Word.wf (Word.assemble op d) = true ↔ (op, d) ∈ validFields := by
  have hfields : (op, d) ∈ validFields ↔
      (1 ≤ op.toNat ∧ op.toNat ≤ 10) ∧ (((op = 1 ∨ op = 3) ∨ op = 4) ∨ d = 0) := by
    simp only [validFields, Finset.mem_union, Finset.mem_product, Finset.mem_univ, Finset.mem_singleton, and_true]
    by_cases hd : d = 0 <;> simp only [hd]
    all_goals
      revert op
      decide
  rw [hfields]
  simp [Word.wf, Word.opAssigned, Word.zClear, Word.dataAllowed, Word.takesData, assemble_op, assemble_z, assemble_d]

/-- Different fields make different words. -/
theorem assemble_injective : Function.Injective fun f : BitVec 4 × Byte => Word.assemble f.1 f.2 := by
  rintro ⟨op, d⟩ ⟨op', d'⟩ h
  have hop := congrArg Word.op h
  have hd := congrArg Word.d h
  simp only [assemble_op, assemble_d] at hop hd
  rw [hop, hd]

/-- The words assembled of valid fields. -/
def validWords : Finset Word := validFields.image fun f => Word.assemble f.1 f.2

theorem validWords_card : validWords.card = 775 := by
  rw [validWords, Finset.card_image_of_injective _ assemble_injective, validFields_card]

/-- A word passes R48's checks exactly when it is assembled of valid fields. -/
theorem mem_validWords {w : Word} : w ∈ validWords ↔ Word.wf w = true := by
  rw [validWords, Finset.mem_image]
  constructor
  · rintro ⟨f, hf, rfl⟩
    exact (assemble_wf_iff f.1 f.2).mpr hf
  · intro h
    have hz : Word.z w = 0 := by
      simp only [Word.wf, Word.zClear, Bool.and_eq_true, beq_iff_eq] at h
      obtain ⟨⟨-, hz⟩, -⟩ := h
      exact hz
    have hw := Word.eq_assemble (Word.op w) hz rfl
    rw [hw, assemble_wf_iff] at h
    exact ⟨_, h, hw.symm⟩

/-- The decoder answers a command for the valid words alone. -/
theorem decode_isSome_iff_mem_validWords (w : Word) (capacity : Nat) (record : Record) :
    (decode ⟨w, capacity, record⟩).toOption.isSome = true ↔ w ∈ validWords := by
  rw [mem_validWords, show Word.wf w = HostCommand.wf ⟨w, capacity, record⟩ from rfl, ← exists_decode_iff_wf]
  cases decode ⟨w, capacity, record⟩ <;> simp [Except.toOption]

/-- Settles O11: the words that decode are `validWords`, one for each of the valid fields. -/
theorem exactlySevenHundredSeventyFiveWords : Obligations.ExactlySevenHundredSeventyFiveWords := by
  intro capacity record
  constructor
  · intro w
    cases decode ⟨w, capacity, record⟩ with
    | ok i => exact .inl ⟨i, rfl⟩
    | error why => exact .inr ⟨why, rfl⟩
  · rw [← validWords_card]
    refine congrArg Finset.card (Finset.ext fun w => ?_)
    rw [Finset.mem_filter_univ, decode_isSome_iff_mem_validWords]

/-- A word is refused in every state exactly when it spells no command: a command always answers a next state. -/
theorem refused_iff_not_wf (c : HostCommand) :
    (∀ s : State, ∃ r, runPresented c s = .refused r) ↔ ¬ HostCommand.wf c = true := by
  rw [← exists_decode_iff_wf]
  unfold runPresented
  constructor
  · rintro h ⟨i, hi⟩
    obtain ⟨r, hr⟩ := h State.reset
    obtain ⟨t, ht⟩ := exec_total i State.reset
    simp only [hi, ht] at hr
    cases hr
  · intro h s
    cases hd : decode c with
    | ok i => exact absurd ⟨i, hd⟩ h
    | error why => exact ⟨_, rfl⟩

/-- Settles O9: a command always answers a next state, so the refused words are those that fail R48's checks. -/
theorem refusedWordsAreTheThreeCases : Obligations.RefusedWordsAreTheThreeCases := by
  intro c
  rw [refused_iff_not_wf, HostCommand.wf, Word.wf_iff]
  simp only [List.mem_cons, List.not_mem_nil, or_false]
  omega

/-! ### The table of R45 -/

/-- The mask of a row without a `d` operand keeps the whole word (R45). -/
theorem Word.and_0xFFFF (w : Word) : w.toNat &&& 0xFFFF = w.toNat := by
  rw [Nat.and_two_pow_sub_one_eq_mod w.toNat 16]
  omega

/-- The mask of a row with a `d` operand drops the operand (R45). -/
theorem Word.and_0xFF00 (w : Word) : w.toNat &&& 0xFF00 = w.toNat / 256 * 256 := by
  have hhigh : (w.toNat &&& 0xFF00) / 256 = w.toNat / 256 % 256 := by
    rw [Nat.and_div_two_pow (n := 8), Nat.and_two_pow_sub_one_eq_mod _ 8]
  have hlow : (w.toNat &&& 0xFF00) % 256 = 0 := by
    rw [Nat.and_mod_two_pow (n := 8), Nat.and_zero]
  omega

/-- A row with a `d` operand matches the words assembled of its code (R45, R46). -/
theorem Word.and_0xFF00_eq_iff (w : Word) (op : BitVec 4) :
    w.toNat &&& 0xFF00 = op.toNat * 4096 ↔ w = Word.assemble op (BitVec.ofNat 8 (w.toNat % 256)) := by
  rw [Word.and_0xFF00, ← BitVec.toNat_inj, Word.assemble_toNat, BitVec.toNat_ofNat]
  omega

/-- A row without a `d` operand matches one word (R45). -/
theorem Word.and_0xFFFF_eq_iff (w : Word) (op : BitVec 4) :
    w.toNat &&& 0xFFFF = op.toNat * 4096 ↔ w = Word.assemble op 0 := by
  rw [Word.and_0xFFFF, ← BitVec.toNat_inj, Word.assemble_toNat, show (0 : Byte).toNat = 0 from rfl, Nat.add_zero]

section
variable {m : String} {pat mask : Nat} {build : HostCommand → Instr}

/-- A row's command has the row's mnemonic, whatever its operands. -/
theorem mnemonic_of_mem_opRows (h : (m, pat, mask, build) ∈ opRows) (c : HostCommand) :
    (build c).mnemonic = m := by
  have hrows : ∀ row ∈ opRows, (row.2.2.2 c).mnemonic = row.1 := by simp [opRows, Instr.mnemonic]
  exact hrows _ h

/-- A row's command has the presented operands, those beside the word included (R47). -/
theorem operandsBeside_of_mem_opRows (h : (m, pat, mask, build) ∈ opRows) (c : HostCommand) :
    (build c).OperandsBeside c := by
  have hrows : ∀ row ∈ opRows, (row.2.2.2 c).OperandsBeside c := by simp [opRows, Instr.OperandsBeside]
  exact hrows _ h

/-- A word matches a row exactly when it is the word of the row's command (R45, R46). -/
theorem row_matches_iff_word (h : (m, pat, mask, build) ∈ opRows) (c : HostCommand) :
    c.word.toNat &&& mask = pat ↔ c.word = (build c).word := by
  simp only [opRows, List.mem_cons, Prod.mk.injEq, List.not_mem_nil, or_false] at h
  obtain ⟨-, rfl, rfl, rfl⟩ | ⟨-, rfl, rfl, rfl⟩ | ⟨-, rfl, rfl, rfl⟩ | ⟨-, rfl, rfl, rfl⟩ | ⟨-, rfl, rfl, rfl⟩ |
    ⟨-, rfl, rfl, rfl⟩ | ⟨-, rfl, rfl, rfl⟩ | ⟨-, rfl, rfl, rfl⟩ | ⟨-, rfl, rfl, rfl⟩ | ⟨-, rfl, rfl, rfl⟩ := h
  · exact Word.and_0xFF00_eq_iff c.word 1
  · exact Word.and_0xFFFF_eq_iff c.word 2
  · exact Word.and_0xFF00_eq_iff c.word 3
  · exact Word.and_0xFF00_eq_iff c.word 4
  · exact Word.and_0xFFFF_eq_iff c.word 5
  · exact Word.and_0xFFFF_eq_iff c.word 6
  · exact Word.and_0xFFFF_eq_iff c.word 7
  · exact Word.and_0xFFFF_eq_iff c.word 8
  · exact Word.and_0xFFFF_eq_iff c.word 9
  · exact Word.and_0xFFFF_eq_iff c.word 10

/-- A word matches a row exactly when it decodes to the row's command. -/
theorem row_matches_iff_decode (h : (m, pat, mask, build) ∈ opRows) (c : HostCommand) :
    c.word.toNat &&& mask = pat ↔ decode c = .ok (build c) := by
  rw [row_matches_iff_word h, decode_eq_ok_iff, and_iff_left (operandsBeside_of_mem_opRows h c)]

end

/-- Every command the decoder answers is the command of a row (R45). -/
theorem exists_row_of_decode {c : HostCommand} {i : Instr} (h : decode c = .ok i) :
    ∃ m pat mask build, (m, pat, mask, build) ∈ opRows ∧ build c = i := by
  obtain ⟨hw, hbeside⟩ := word_of_decode h
  have hrow (n : Nat) (hn : n < opRows.length) : opRows[n] ∈ opRows := List.getElem_mem hn
  have hdata {op : BitVec 4} {d : Byte} (hd : c.word = Word.assemble op d) :
      BitVec.ofNat 8 (c.word.toNat % 256) = d := by
    apply BitVec.eq_of_toNat_eq
    rw [BitVec.toNat_ofNat, hd, Word.assemble_toNat]
    omega
  cases i with
  | sel d => exact ⟨_, _, _, _, hrow 0 (by decide), congrArg Instr.sel (hdata hw)⟩
  | rd => exact ⟨_, _, _, _, hrow 1 (by decide), rfl⟩
  | wr d => exact ⟨_, _, _, _, hrow 2 (by decide), congrArg Instr.wr (hdata hw)⟩
  | wio d => exact ⟨_, _, _, _, hrow 3 (by decide), congrArg Instr.wio (hdata hw)⟩
  | cyc => exact ⟨_, _, _, _, hrow 4 (by decide), rfl⟩
  | init => exact ⟨_, _, _, _, hrow 5 (by decide), rfl⟩
  | rcur => exact ⟨_, _, _, _, hrow 6 (by decide), rfl⟩
  | setbuf n => exact ⟨_, _, _, _, hrow 7 (by decide), congrArg Instr.setbuf hbeside.symm⟩
  | save => exact ⟨_, _, _, _, hrow 8 (by decide), rfl⟩
  | load r => exact ⟨_, _, _, _, hrow 9 (by decide), congrArg Instr.load hbeside.symm⟩

/-- Settles O10, by the rows' law `row_matches_iff_decode`: two rows that match are answered by the same decoding, and a
decoding has its row. -/
theorem wordSpellsItsTableRow : Obligations.WordSpellsItsTableRow := by
  intro c
  constructor
  · intro m pat mask build hrow hmatch
    have hdec := (row_matches_iff_decode hrow c).mp hmatch
    refine ⟨hdec, mnemonic_of_mem_opRows hrow c, fun m' pat' mask' build' hrow' hmatch' => ?_⟩
    have hbuild : build' c = build c :=
      Except.ok.inj (((row_matches_iff_decode hrow' c).mp hmatch').symm.trans hdec)
    rw [← mnemonic_of_mem_opRows hrow c, ← mnemonic_of_mem_opRows hrow' c, hbuild]
  · intro hnone
    cases hdec : decode c with
    | error why => exact ⟨why, rfl⟩
    | ok i =>
      obtain ⟨m, pat, mask, build, hrow, rfl⟩ := exists_row_of_decode hdec
      exact absurd ((row_matches_iff_decode hrow c).mpr hdec) (hnone m pat mask build hrow)

/-! ### Table words (log 9) -/

/-- A table word's instruction is what its presented command decodes to. -/
theorem decode_ofTableWord {nbits w : Nat} {i : Instr} (h : decodeTableWord nbits w = some i) :
    decode (HostCommand.ofTableWord nbits w) = .ok i := by
  unfold decodeTableWord at h
  split at h
  case h_1 hd => rw [hd, Option.some.inj h]
  case h_2 => cases h

/-- Settles O3: the presented word is the queue's first, and the step takes it off again. -/
theorem fetchedWordRunsNext : Obligations.FetchedWordRunsNext := by
  intro s w i hf hr hw
  have hpending : (s.withFetchWord 16 w).pending = HostCommand.ofTableWord 16 w :: s.pending := rfl
  calc step (s.withFetchWord 16 w)
    _ = exec i ((s.withFetchWord 16 w).setPending s.pending) :=
      step_of_pending (s := s.withFetchWord 16 w) hf hr hpending (decode_ofTableWord hw)
    _ = exec i s := by rw [State.withFetchWord, State.present, State.setPending_setPending, State.setPending_self]

/-- Settles O13, by evaluating the decoder on the eleven words. -/
theorem tableWordsDecode : Obligations.TableWordsDecode := by
  unfold Obligations.TableWordsDecode
  decide

end Sys2Proof

namespace Sys2Proof.Machine

open Sys2Proof

/-! ### Pseudo-instructions (R51) -/

/-- WREG on a running state leaves the register's write, and the state runs on (R51, R52, R54). -/
theorem State.Running.execAll_wreg {s : State} (hs : s.Running) (r : RegIndex) (v : Byte) (p : List Instr) :
    execAll (expandWreg (r.zeroExtend 8) v ++ p) s = execAll p (s.setChip ((s.chip.setLatch r).writeReg r v)) :=
  calc execAll (expandWreg (r.zeroExtend 8) v ++ p) s
    _ = execAll (.wr v :: p) (s.setChip (s.chip.setLatch r)) := hs.execAll_cons _ (exec_sel_of_init hs.1 r)
    _ = execAll p (s.setChip ((s.chip.setLatch r).writeReg r v)) :=
      (hs.setChip _).execAll_cons p (exec_wr_of_init (hs.setChip (s.chip.setLatch r)).1 v)

/-- A line that expands to one WREG leaves the register's write. -/
theorem State.Running.execAll_wreg_only {s : State} (hs : s.Running) (r : RegIndex) (v : Byte) :
    execAll (expandWreg (r.zeroExtend 8) v) s = s.setChip ((s.chip.setLatch r).writeReg r v) := hs.execAll_wreg r v []

/-- A line that expands to two WREGs leaves the second register's write after the first's. -/
theorem State.Running.execAll_wreg_wreg {s : State} (hs : s.Running) (r r' : RegIndex) (v v' : Byte) :
    execAll (expandWreg (r.zeroExtend 8) v ++ expandWreg (r'.zeroExtend 8) v') s =
      s.setChip ((((s.chip.setLatch r).writeReg r v).setLatch r').writeReg r' v') := by
  rw [hs.execAll_wreg, (hs.setChip _).execAll_wreg_only]
  rfl

/-- The two bytes that ENVP and TONE cut a period into make the period again. -/
theorem append_extractLsb' {n : Nat} (p : BitVec (n + 8)) : p.extractLsb' 8 n ++ p.extractLsb' 0 8 = p := by
  rw [BitVec.extractLsb'_append_extractLsb'_eq_extractLsb' (by omega), BitVec.extractLsb'_eq_self]

/-- TONE's two bytes, stored under their masks, are the period it names, 0 clamped to 1 (R51, R55). -/
theorem tonePeriodOf_masked (ch : Channel) (p : BitVec 12) :
    tonePeriodOf (p.extractLsb' 0 8 &&& regMask (toneLowRegister ch))
      ((p.extractLsb' 8 4).zeroExtend 8 &&& regMask (toneHighRegister ch)) = if p = 0 then 1 else p := by
  have hlow : regMask (toneLowRegister ch) = BitVec.allOnes 8 := by cases ch <;> rfl
  have hhigh : regMask (toneHighRegister ch) = 0x0F := by cases ch <;> rfl
  have hnibble (x : BitVec 4) : (x.zeroExtend 8 &&& (0x0F : Byte)).extractLsb' 0 4 = x := by revert x; decide
  rw [tonePeriodOf, tonePeriodBits, hlow, hhigh, hnibble, BitVec.and_allOnes, append_extractLsb']

/-- NOISEP's byte, stored under its mask, is the period it names, 0 clamped to 1 (R51, R56). -/
theorem noisePeriodOf_masked (p : BitVec 5) :
    noisePeriodOf (p.zeroExtend 8 &&& regMask 6) = if p = 0 then 1 else p := by
  revert p; decide

/-- ENVP's two bytes, stored whole, are the period it names (R51, R59). -/
theorem envPeriodOf_masked (p : BitVec 16) :
    envPeriodOf (p.extractLsb' 0 8 &&& regMask 11) (p.extractLsb' 8 8 &&& regMask 12) = p := by
  rw [show regMask 11 = BitVec.allOnes 8 from rfl, show regMask 12 = BitVec.allOnes 8 from rfl,
    BitVec.and_allOnes, BitVec.and_allOnes]
  exact append_extractLsb' p

/-- A level register keeps the five bits of the amplitude and the mode (R12). -/
theorem regMask_levelRegister (ch : Channel) : regMask (levelRegister ch) = 0x1F := by cases ch <;> rfl

theorem amplitudeOf_masked (ch : Channel) (v : Byte) :
    (amplitudeOf (v &&& regMask (levelRegister ch))).toNat = v.toNat % 16 := by
  have hmask : v.toNat &&& (0x1F : Byte).toNat = v.toNat % 32 := Nat.and_two_pow_sub_one_eq_mod v.toNat 5
  rw [regMask_levelRegister, amplitudeOf, BitVec.extractLsb'_toNat, BitVec.toNat_and, hmask, Nat.shiftRight_zero]
  omega

theorem envModeBit_masked (ch : Channel) (v : Byte) :
    envModeBit (v &&& regMask (levelRegister ch)) = v.toNat.testBit 4 := by
  rw [regMask_levelRegister, envModeBit, BitVec.getLsbD_and, show (0x1F : Byte).getLsbD 4 = true from rfl,
    Bool.and_true, BitVec.testBit_toNat]

/-- The registers of a channel as the pseudo-instructions number them (R51). -/
theorem toneLowRegister_zeroExtend (ch : Channel) :
    BitVec.ofNat 8 (2 * ch.index) = (toneLowRegister ch).zeroExtend 8 := by
  cases ch <;> rfl

theorem toneHighRegister_zeroExtend (ch : Channel) :
    BitVec.ofNat 8 (2 * ch.index + 1) = (toneHighRegister ch).zeroExtend 8 := by
  cases ch <;> rfl

theorem levelRegister_zeroExtend (ch : Channel) :
    BitVec.ofNat 8 (8 + ch.index) = (levelRegister ch).zeroExtend 8 := by
  cases ch <;> rfl

theorem toneLowRegister_ne_toneHighRegister (ch : Channel) : toneLowRegister ch ≠ toneHighRegister ch := by
  cases ch <;> decide

/-- TONE on a running state (R51, R55). -/
theorem State.Running.execAll_tone {s : State} (hs : s.Running) (ch : Channel) (p : BitVec 12) :
    (execAll (AsmCommand.expand (.tone ch p)) s).Running ∧
      ((execAll (AsmCommand.expand (.tone ch p)) s).chip.channel ch).period = if p = 0 then 1 else p := by
  rw [AsmCommand.expand, toneLowRegister_zeroExtend, toneHighRegister_zeroExtend, hs.execAll_wreg_wreg]
  refine ⟨hs.setChip _, ?_⟩
  rw [← tonePeriodOf_masked ch p, State.setChip_chip, Chip.writeReg, derivationOf_toneHighRegister]
  simp [toneLowRegister_ne_toneHighRegister]

/-- NOISEP on a running state (R51, R56). -/
theorem State.Running.execAll_noisep {s : State} (hs : s.Running) (p : BitVec 5) :
    (execAll (AsmCommand.expand (.noisep p)) s).Running ∧
      (execAll (AsmCommand.expand (.noisep p)) s).chip.noise.period = if p = 0 then 1 else p := by
  rw [AsmCommand.expand, show (6 : Byte) = (6 : RegIndex).zeroExtend 8 from rfl, hs.execAll_wreg_only]
  refine ⟨hs.setChip _, ?_⟩
  rw [← noisePeriodOf_masked p, State.setChip_chip, Chip.writeReg, show derivationOf 6 = .noise from rfl]
  simp

/-- ENVP on a running state (R51, R59). -/
theorem State.Running.execAll_envp {s : State} (hs : s.Running) (p : BitVec 16) :
    (execAll (AsmCommand.expand (.envp p)) s).Running ∧
      (execAll (AsmCommand.expand (.envp p)) s).chip.env.period = p := by
  rw [AsmCommand.expand, show (11 : Byte) = (11 : RegIndex).zeroExtend 8 from rfl,
    show (12 : Byte) = (12 : RegIndex).zeroExtend 8 from rfl, hs.execAll_wreg_wreg]
  refine ⟨hs.setChip _, ?_⟩
  conv_rhs => rw [← envPeriodOf_masked p]
  rw [State.setChip_chip, Chip.writeReg, show derivationOf 12 = .envPeriod from rfl]
  simp

/-- LEVEL on a running state (R51, R58). -/
theorem State.Running.execAll_level {s : State} (hs : s.Running) (ch : Channel) (v : Byte) :
    (execAll (AsmCommand.expand (.level ch v)) s).Running ∧
      ((execAll (AsmCommand.expand (.level ch v)) s).chip.channel ch).amplitude.toNat = v.toNat % 16 ∧
      ((execAll (AsmCommand.expand (.level ch v)) s).chip.channel ch).envMode = v.toNat.testBit 4 := by
  rw [AsmCommand.expand, levelRegister_zeroExtend, hs.execAll_wreg_only]
  refine ⟨hs.setChip _, ?_⟩
  rw [← amplitudeOf_masked ch v, ← envModeBit_masked ch v, State.setChip_chip, Chip.writeReg,
    derivationOf_levelRegister]
  simp

/-- A CYC that has room runs a cycle (R84). -/
theorem exec_cyc_of_room {s : State} {n : Nat} (hi : s.initialized = true) (hroom : s.RoomFor (n + 1)) :
    exec .cyc s = .next s.cycle := by
  obtain ⟨cap, hcap, hle⟩ := hroom
  have hlt : ¬ s.cursor ≥ cap := by omega
  simp only [exec, execCyc, requireInit_of_init _ _ hi, hcap, if_neg hlt]

/-- A cycle takes one place of the buffer (R89). -/
theorem State.RoomFor.cycle {s : State} {n : Nat} (hroom : s.RoomFor (n + 1)) : s.cycle.RoomFor n := by
  obtain ⟨cap, hcap, hle⟩ := hroom
  exact ⟨cap, hcap, by rw [State.cycle, State.output_cursor, State.sinkAppend_cursor, State.setChip_cursor]; omega⟩

/-- A cycle leaves a running state running. -/
theorem State.Running.cycle {s : State} (hs : s.Running) : s.cycle.Running := hs

/-- A cycle emits one sample (R89). -/
theorem State.cycle_emitted_length (s : State) : s.cycle.emitted.length = s.emitted.length + 1 := by
  simp [State.cycle]

/-- RUN n on a running state with room for `n` samples, by induction on `n` (R51, R84, R89). -/
theorem State.Running.execAll_run {s : State} (hs : s.Running) (n : Nat) (hroom : s.RoomFor n) :
    (execAll (AsmCommand.expand (.run n)) s).Running ∧
      (execAll (AsmCommand.expand (.run n)) s).emitted.length = s.emitted.length + n := by
  rw [AsmCommand.expand]
  induction n generalizing s with
  | zero => exact ⟨hs, rfl⟩
  | succ n ih =>
    rw [List.replicate_succ, hs.execAll_cons _ (exec_cyc_of_room hs.1 hroom)]
    obtain ⟨hrun, hlen⟩ := ih hs.cycle hroom.cycle
    refine ⟨hrun, ?_⟩
    rw [hlen, s.cycle_emitted_length, Nat.add_assoc, Nat.add_comm 1 n]

/-- Settles O53: one law for each pseudo-instruction, the register writes by the derivation of the register last
written and RUN by induction on its count. -/
theorem pseudoInstructionsReachTheirRegisters : Obligations.PseudoInstructionsReachTheirRegisters :=
  fun _ hs => ⟨hs.execAll_tone, hs.execAll_noisep, hs.execAll_envp, hs.execAll_level, hs.execAll_run⟩

end Sys2Proof.Machine
end

section
/-! PROOFS. The register bus (R52 to R63). A WR on a state that holds a chip record answers the record's register write,
so each statement about WR is one about `Chip.writeReg`: the masked store, and the fields that the derivation of the
written register makes again from the register file that the store leaves. -/

namespace Sys2Proof.Machine

open Sys2Proof Sys2Proof.Rules

/-! ### What the commands answer -/

/-- WR with register `r` latched, on a state that holds a chip record (R54). -/
theorem exec_wr_of_latch {s : State} {r : RegIndex} (hi : s.initialized = true) (hr : s.chip.latch = r) (d : Byte) :
    exec (.wr d) s = .next (s.setChip (s.chip.writeReg r d)) := by
  rw [exec_wr_of_init hi, hr]

/-- WIO on a state that holds a chip record (R62). -/
theorem exec_wio_of_init {s : State} (hi : s.initialized = true) (d : Byte) :
    exec (.wio d) s = .next (s.setChip (s.chip.store ioRegister d)) := requireInit_of_init _ _ hi

/-- A guarded command before the first INIT or LOAD sets a mark of code 5 alone (R97, R111). -/
theorem requireInit_marks_code_five (i : Instr) {s : State} (goOn : Result) (hu : s.initialized = false) :
    ∃ f, requireInit i s goOn = .next { s with fault := some f } ∧ f.code = 5 :=
  ⟨.uninit i, requireInit_of_uninit i goOn hu, rfl⟩

/-- Settles O17: the latch holds the low four bits of the operand, which are the whole of an operand up to 15. -/
theorem selSetsTheLatchAlone : Obligations.SelSetsTheLatchAlone := by
  intro d s
  refine ⟨fun hi hd => ?_, fun hi hd => ?_, requireInit_marks_code_five _ _⟩
  · rw [exec, execSel, requireInit_of_init _ _ hi, indexOperand_of_le hd]
    rfl
  · rw [exec, execSel, requireInit_of_init _ _ hi, indexOperand_of_gt hd]
    rfl

/-- Settles O18, by RD's answer in each of the two cases of its guard. -/
theorem rdReturnsTheLatchedRegister : Obligations.RdReturnsTheLatchedRegister :=
  fun _ => ⟨exec_rd_of_init, requireInit_marks_code_five _ _⟩

/-! ### The masked store (R13, R54) -/

theorem Chip.store_storesMasked (c : Chip) (r : RegIndex) (d : Byte) : StoresMasked c (c.store r d) r d :=
  ⟨fun r' => Chip.store_reg c r r' d, Chip.store_latch c r d⟩

theorem Chip.writeReg_storesMasked (c : Chip) (r : RegIndex) (d : Byte) : StoresMasked c (c.writeReg r d) r d :=
  ⟨fun r' => Chip.writeReg_reg c r r' d, Chip.writeReg_latch c r d⟩

/-- A register whose mask is all ones holds the whole byte stored to it (R12). -/
theorem reg_eq_of_storesMasked {c c' : Chip} {r : RegIndex} {d : Byte} (hmask : regMask r = BitVec.allOnes 8)
    (h : StoresMasked c c' r d) : c'.reg r = d := by
  rw [h.1 r, if_pos rfl, hmask, BitVec.and_allOnes]

/-- Settles O27: WIO's masked store writes the register file alone, and register 14 has no masked bit. -/
theorem wioStoresTheIoRegister : Obligations.WioStoresTheIoRegister := by
  refine fun s d => ⟨fun hi => ?_, requireInit_marks_code_five _ _⟩
  have hstore := Chip.store_storesMasked s.chip ioRegister d
  exact ⟨_, exec_wio_of_init hi d, hstore, reg_eq_of_storesMasked rfl hstore, s.chip.store_channel _ d, rfl, rfl⟩

/-! ### The running state (R63) -/

/-- No derivation writes a counter or phase of a tone channel, or the counter or the LFSR of the noise generator. -/
theorem Chip.writeReg_sameToneNoiseRunning (c : Chip) (r : RegIndex) (d : Byte) :
    SameToneNoiseRunning c (c.writeReg r d) := by
  simp [SameToneNoiseRunning, Chip.writeReg]

theorem Chip.writeReg_sameEnvRunning (c : Chip) {r : RegIndex} (d : Byte) (hr : r ≠ 13) :
    SameEnvRunning c (c.writeReg r d) := by
  have hshape : derivationOf r ≠ .shape := fun h => hr (derivationOf_eq_shape h)
  simp [SameEnvRunning, Chip.writeReg, hshape]

/-- WIO's store is the write of a register that has no derivation (R61, R62). -/
theorem Chip.store_ioRegister_eq_writeReg (c : Chip) (d : Byte) :
    c.store ioRegister d = c.writeReg ioRegister d := rfl

/-- Settles O28: WR is the write of the latched register and WIO that of register 14. -/
theorem onlyShapeWritesTouchTheRunningState : Obligations.OnlyShapeWritesTouchTheRunningState := by
  rintro i d s (rfl | rfl) hi
  · refine ⟨_, exec_wr_of_init hi d, Chip.writeReg_sameToneNoiseRunning .., ?_⟩
    rintro (hwio | hlatch)
    · cases hwio
    · exact Chip.writeReg_sameEnvRunning _ d hlatch
  · refine ⟨_, exec_wio_of_init hi d, ?_⟩
    rw [Chip.store_ioRegister_eq_writeReg]
    exact ⟨Chip.writeReg_sameToneNoiseRunning .., fun _ => Chip.writeReg_sameEnvRunning _ d (by decide)⟩

/-! ### What the write of a register with a given derivation makes, and what it leaves (R55 to R61) -/

section
variable (c : Chip) {r : RegIndex} (d : Byte)

theorem Chip.writeReg_channel_of_tone {ch : Channel} (hr : derivationOf r = .tone ch) :
    (c.writeReg r d).channel ch =
      { c.channel ch with
        period := tonePeriodOf ((c.writeReg r d).reg (toneLowRegister ch))
          ((c.writeReg r d).reg (toneHighRegister ch)) } := by
  simp [Chip.writeReg, hr]

theorem Chip.writeReg_noise_of_noise (hr : derivationOf r = .noise) :
    (c.writeReg r d).noise = { c.noise with period := noisePeriodOf ((c.writeReg r d).reg 6) } := by
  simp [Chip.writeReg, hr]

theorem Chip.writeReg_channel_of_mixer (hr : derivationOf r = .mixer) (ch : Channel) :
    (c.writeReg r d).channel ch =
      { c.channel ch with
        toneDisabled := toneDisableBit ((c.writeReg r d).reg 7) ch
        noiseDisabled := noiseDisableBit ((c.writeReg r d).reg 7) ch } := by
  simp [Chip.writeReg, hr]

theorem Chip.writeReg_channel_of_level {ch : Channel} (hr : derivationOf r = .level ch) :
    (c.writeReg r d).channel ch =
      { c.channel ch with
        amplitude := amplitudeOf ((c.writeReg r d).reg (levelRegister ch))
        envMode := envModeBit ((c.writeReg r d).reg (levelRegister ch)) } := by
  simp [Chip.writeReg, hr]

theorem Chip.writeReg_env_of_envPeriod (hr : derivationOf r = .envPeriod) :
    (c.writeReg r d).env =
      { c.env with period := envPeriodOf ((c.writeReg r d).reg 11) ((c.writeReg r d).reg 12) } := by
  simp [Chip.writeReg, hr]

theorem Chip.writeReg_env_of_shape (hr : derivationOf r = .shape) :
    (c.writeReg r d).env =
      { period := c.env.period, counter := 0, segment := false, step := 0,
        volume := segmentStart (c.writeReg r d).shape false } := by
  simp [Chip.writeReg, Chip.shape, hr]

variable {e : Derivation}

theorem Chip.writeReg_channel_of_ne {ch : Channel} (hr : derivationOf r = e) (htone : e ≠ .tone ch)
    (hmixer : e ≠ .mixer) (hlevel : e ≠ .level ch) : (c.writeReg r d).channel ch = c.channel ch := by
  simp [Chip.writeReg, hr, htone, hmixer, hlevel]

theorem Chip.writeReg_noise_of_ne (hr : derivationOf r = e) (hnoise : e ≠ .noise) :
    (c.writeReg r d).noise = c.noise := by
  simp [Chip.writeReg, hr, hnoise]

theorem Chip.writeReg_env_of_ne (hr : derivationOf r = e) (hperiod : e ≠ .envPeriod) (hshape : e ≠ .shape) :
    (c.writeReg r d).env = c.env := by
  simp [Chip.writeReg, hr, hperiod, hshape]

end

/-! ### The tone periods (R55) -/

/-- The register numbers 2i and 2i+1 (R12). -/
theorem derivationOf_of_tonePair {r : RegIndex} {ch : Channel}
    (h : r.toNat = 2 * ch.index ∨ r.toNat = 2 * ch.index + 1) : derivationOf r = .tone ch := by
  revert r; cases ch <;> decide

theorem ofNat_toneLow (ch : Channel) : BitVec.ofNat 4 (2 * ch.index) = toneLowRegister ch := by cases ch <;> rfl

theorem ofNat_toneHigh (ch : Channel) : BitVec.ofNat 4 (2 * ch.index + 1) = toneHighRegister ch := by
  cases ch <;> rfl

/-- The high byte of a tone period keeps four bits under its mask (R12). -/
theorem Chip.masksKept.toneHigh_lt {c : Chip} (h : c.masksKept) (ch : Channel) :
    (c.reg (toneHighRegister ch)).toNat < 16 := by
  have hmask : regMask (toneHighRegister ch) = 0x0F := by cases ch <;> rfl
  have hbyte (v : Byte) (hv : v &&& ~~~(0x0F : Byte) = 0) : v.toNat < 16 := by revert v; decide
  exact hbyte _ (hmask ▸ h (toneHighRegister ch))

/-- R55's `low | (high << 8)`, 0 clamped to 1, of a high byte that keeps its mask. -/
theorem tonePeriodOf_toNat (low : Byte) {high : Byte} (hhigh : high.toNat < 16) :
    (tonePeriodOf low high).toNat =
      let p := low.toNat ||| high.toNat <<< 8
      if p = 0 then 1 else p := by
  have hbits : (tonePeriodBits low high).toNat = low.toNat ||| high.toNat <<< 8 := by
    rw [tonePeriodBits, BitVec.toNat_append, BitVec.extractLsb'_toNat, Nat.shiftRight_zero,
      Nat.mod_eq_of_lt (by omega), Nat.or_comm]
  rw [tonePeriodOf, ← hbits, apply_ite BitVec.toNat]
  exact if_congr BitVec.toNat_eq rfl rfl

/-- Settles O20: the period is formed from the pair that the write leaves, whose high byte keeps its mask. -/
theorem wrToTonePairSetsThePeriod : Obligations.WrToTonePairSetsThePeriod := by
  intro s d ch hi hmasks hlatch
  have hr := derivationOf_of_tonePair hlatch
  have hstore := Chip.writeReg_storesMasked s.chip s.chip.latch d
  have hhigh := (Chip.masksKept_of_reg hmasks hstore.1).toneHigh_lt ch
  have hch := Chip.writeReg_channel_of_tone s.chip d hr
  refine ⟨_, exec_wr_of_init hi d, hstore, ?_, by rw [hch], fun j hj => ?_,
    Chip.writeReg_noise_of_ne _ d hr nofun, Chip.writeReg_env_of_ne _ d hr nofun nofun⟩
  · rw [hch, ofNat_toneLow, ofNat_toneHigh]
    exact tonePeriodOf_toNat _ hhigh
  · exact Chip.writeReg_channel_of_ne _ d hr (fun h => hj (Derivation.tone.inj h).symm) nofun nofun

/-! ### The noise period (R56) -/

/-- The noise period of a byte stored under register 6's mask. -/
theorem noisePeriodOf_mask_toNat (d : Byte) :
    (noisePeriodOf (d &&& regMask 6)).toNat = if d.toNat % 32 = 0 then 1 else d.toNat % 32 := by
  revert d; decide

/-- Settles O21, by the derivation of register 6. -/
theorem wrToRegisterSixSetsTheNoisePeriod : Obligations.WrToRegisterSixSetsTheNoisePeriod := by
  intro s d hi hlatch
  have hr : derivationOf 6 = .noise := rfl
  have hnoise := Chip.writeReg_noise_of_noise s.chip d hr
  refine ⟨_, exec_wr_of_latch hi hlatch d, Chip.writeReg_storesMasked .., ?_, by rw [hnoise],
    fun ch => Chip.writeReg_channel_of_ne _ d hr nofun nofun nofun, Chip.writeReg_env_of_ne _ d hr nofun nofun⟩
  rw [hnoise, Chip.writeReg_reg, if_pos rfl]
  exact noisePeriodOf_mask_toNat d

/-! ### The disable flags (R57) -/

/-- Settles O22: register 7 holds the whole byte, and each channel's flags are two bits of it. -/
theorem wrToRegisterSevenSetsTheDisableFlags : Obligations.WrToRegisterSevenSetsTheDisableFlags := by
  intro s d hi hlatch
  have hr : derivationOf 7 = .mixer := rfl
  have hstore := Chip.writeReg_storesMasked s.chip 7 d
  have hreg : (s.chip.writeReg 7 d).reg 7 = d := reg_eq_of_storesMasked rfl hstore
  refine ⟨_, exec_wr_of_latch hi hlatch d, hstore, hreg, fun ch => ?_, Chip.writeReg_noise_of_ne _ d hr nofun,
    Chip.writeReg_env_of_ne _ d hr nofun nofun⟩
  rw [Chip.writeReg_channel_of_mixer _ d hr, hreg, toneDisableBit, noiseDisableBit, BitVec.testBit_toNat,
    BitVec.testBit_toNat]

/-! ### The level registers (R58) -/

/-- The register numbers 8+i (R12). -/
theorem eq_levelRegister {r : RegIndex} {ch : Channel} (h : r.toNat = 8 + ch.index) : r = levelRegister ch := by
  revert r; cases ch <;> decide

/-- Settles O23: the amplitude and the mode are the low four bits and bit 4 of the byte, all inside the mask. -/
theorem wrToLevelRegisterSetsAmplitudeAndMode : Obligations.WrToLevelRegisterSetsAmplitudeAndMode := by
  intro s d ch hi hlatch
  replace hlatch := eq_levelRegister hlatch
  have hr := derivationOf_levelRegister ch
  rw [hlatch]
  refine ⟨_, exec_wr_of_latch hi hlatch d, Chip.writeReg_storesMasked .., ?_, fun j hj => ?_,
    Chip.writeReg_noise_of_ne _ d hr nofun, Chip.writeReg_env_of_ne _ d hr nofun nofun⟩
  · rw [Chip.writeReg_channel_of_level _ d hr, Chip.writeReg_reg, if_pos rfl, envModeBit_masked,
      ← amplitudeOf_masked ch, BitVec.ofNat_toNat, BitVec.setWidth_eq]
  · exact Chip.writeReg_channel_of_ne _ d hr nofun nofun (fun h => hj (Derivation.level.inj h).symm)

/-! ### The envelope's registers (R59, R60) -/

theorem envPeriodOf_toNat (low high : Byte) : (envPeriodOf low high).toNat = low.toNat ||| high.toNat <<< 8 := by
  rw [envPeriodOf, BitVec.toNat_append, Nat.or_comm]

/-- Settles O24, by the derivation that registers 11 and 12 share. -/
theorem wrToRegisterElevenOrTwelveSetsTheEnvelopePeriod :
    Obligations.WrToRegisterElevenOrTwelveSetsTheEnvelopePeriod := by
  intro s d hi hlatch
  have hr : derivationOf s.chip.latch = .envPeriod := by
    rcases hlatch with h | h <;> rw [h] <;> rfl
  have henv := Chip.writeReg_env_of_envPeriod s.chip d hr
  refine ⟨_, exec_wr_of_init hi d, Chip.writeReg_storesMasked .., ?_, by rw [henv],
    fun ch => Chip.writeReg_channel_of_ne _ d hr nofun nofun nofun, Chip.writeReg_noise_of_ne _ d hr nofun⟩
  rw [henv]
  exact envPeriodOf_toNat _ _

/-- The Attack bit is bit 2 and inside register 13's mask (R12, R76). -/
theorem attackSet_mask (d : Byte) : attackSet (d &&& regMask 13) = d.toNat.testBit 2 := by
  revert d; decide

/-- Settles O25, by the derivation of register 13: segment 0 starts from the volume that the Attack bit names. -/
theorem wrToRegisterThirteenRestartsTheEnvelope : Obligations.WrToRegisterThirteenRestartsTheEnvelope := by
  intro s d hi hlatch
  have hr : derivationOf 13 = .shape := rfl
  have hshape : (s.chip.writeReg 13 d).shape = d &&& regMask 13 := Chip.writeReg_reg s.chip 13 13 d
  refine ⟨_, exec_wr_of_latch hi hlatch d, Chip.writeReg_storesMasked .., ?_,
    fun ch => Chip.writeReg_channel_of_ne _ d hr nofun nofun nofun, Chip.writeReg_noise_of_ne _ d hr nofun⟩
  rw [Chip.writeReg_env_of_shape _ d hr, hshape, segmentStart, if_neg Bool.false_ne_true, attackSet_mask]

/-! ### The IO registers (R61) -/

/-- Settles O26: registers 14 and 15 have no derivation. -/
theorem wrToRegisterFourteenOrFifteenStoresOnly : Obligations.WrToRegisterFourteenOrFifteenStoresOnly := by
  intro s d hi hlatch
  have hr : derivationOf s.chip.latch = .nothing := by
    rcases hlatch with h | h <;> rw [h] <;> rfl
  exact ⟨_, exec_wr_of_init hi d, Chip.writeReg_storesMasked ..,
    fun ch => Chip.writeReg_channel_of_ne _ d hr nofun nofun nofun, Chip.writeReg_noise_of_ne _ d hr nofun,
    Chip.writeReg_env_of_ne _ d hr nofun nofun⟩

end Sys2Proof.Machine
end

section
/-! PROOFS. The tone generator (R64 to R66). A run of CYC that has room is an iterated cycle, and a cycle steps each
channel by `toneStep`; so R65 is a statement about the iterates of `toneStep`, by induction on their number. -/

namespace Sys2Proof.Machine

open Sys2Proof

/-! ### A run of CYC -/

/-- With room for each sample, `n` CYC run `n` cycles (R37, R84). -/
theorem State.Running.execAll_replicate_cyc {s : State} (hs : s.Running) {n : Nat} (hroom : s.RoomFor n) :
    execAll (List.replicate n .cyc) s = State.cycle^[n] s := by
  induction n generalizing s with
  | zero => rfl
  | succ n ih =>
    rw [List.replicate_succ, hs.execAll_cons _ (exec_cyc_of_room hs.1 hroom), ih hs.cycle hroom.cycle,
      Function.iterate_succ_apply]

/-- Cycles leave a running state running. -/
theorem State.Running.iterate_cycle {s : State} (hs : s.Running) (n : Nat) : (State.cycle^[n] s).Running :=
  Function.Iterate.rec State.Running hs (fun _ => State.Running.cycle) n

/-- Each cycle moves the cursor by one (R89). -/
theorem State.iterate_cycle_cursor (s : State) (n : Nat) : (State.cycle^[n] s).cursor = s.cursor + n := by
  have hcycle : Function.Semiconj State.cursor State.cycle Nat.succ := fun _ => rfl
  rw [hcycle.iterate_right n s, Nat.succ_iterate]

/-- The chip record after `n` cycles depends on the chip record before them alone (R84). -/
theorem State.iterate_cycle_chip (s : State) (n : Nat) : (State.cycle^[n] s).chip = Chip.advance^[n] s.chip := by
  have hcycle : Function.Semiconj State.chip State.cycle Chip.advance := fun _ => rfl
  exact hcycle.iterate_right n s

/-- Each channel after `n` cycles' generator steps depends on that channel before them alone (R64, R84). -/
theorem Chip.iterate_advance_channel (c : Chip) (ch : Channel) (n : Nat) :
    (Chip.advance^[n] c).channel ch = toneStep^[n] (c.channel ch) := by
  have hadvance : Function.Semiconj (Chip.channel · ch) Chip.advance toneStep := (Chip.advance_channel · ch)
  exact hadvance.iterate_right n c

/-! ### The tone step (R64, R66) -/

theorem toneStep_of_reached {t : ToneChannel} (h : t.period.toNat ≤ t.counter.toNat + 1) :
    toneStep t = { t with counter := 0, sign := !t.sign } := by
  rw [toneStep, if_pos h, flipSign]

/-- Below the period the counter is one more; it does not wrap, since the period fits in its width. -/
theorem toneStep_of_below {t : ToneChannel} (h : t.counter.toNat + 1 < t.period.toNat) :
    (toneStep t).counter.toNat = t.counter.toNat + 1 ∧ toneStep t = { t with counter := (toneStep t).counter } := by
  have hfits : t.counter.toNat + 1 < 2 ^ 12 := h.trans t.period.isLt
  rw [toneStep, if_neg h.not_ge]
  exact ⟨by rw [BitVec.toNat_ofNat, Nat.mod_eq_of_lt hfits], rfl⟩

/-- Settles O29: a CYC with room runs a cycle, which steps each channel. -/
theorem cycStepsEachToneGenerator : Obligations.CycStepsEachToneGenerator := by
  intro s hi hroom
  refine ⟨s.cycle, exec_cyc_of_room hi hroom, fun ch => ?_⟩
  have hstep : s.cycle.chip.channel ch = toneStep (s.chip.channel ch) := s.chip.advance_channel ch
  rw [hstep]
  exact ⟨toneStep_of_reached, toneStep_of_below⟩

/-! ### The square wave (R65) -/

/-- The count that a further step takes to `p` starts again from 0, and completes one more `p`. -/
theorem div_mod_succ_of_reached {n p : Nat} (hp : 0 < p) (h : p ≤ n % p + 1) :
    (n + 1) / p = n / p + 1 ∧ (n + 1) % p = 0 := by
  have hlt := Nat.mod_lt n hp
  have hn := Nat.div_add_mod n p
  rw [Nat.div_mod_unique hp, Nat.mul_succ]
  omega

/-- The count that a further step leaves below `p` goes up by one, and completes none. -/
theorem div_mod_succ_of_below {n p : Nat} (h : n % p + 1 < p) :
    (n + 1) / p = n / p ∧ (n + 1) % p = n % p + 1 := by
  have hn := Nat.div_add_mod n p
  rw [Nat.div_mod_unique (Nat.zero_lt_of_lt h)]
  omega

/-- One more flip changes the parity of the number of flips. -/
theorem not_xor_decide_odd (b : Bool) (k : Nat) :
    (!Bool.xor b (decide (k % 2 = 1))) = Bool.xor b (decide ((k + 1) % 2 = 1)) := by
  rw [← Bool.xor_not, ← decide_not]
  congr 2
  exact propext (Nat.mod_two_ne_one.trans Nat.succ_mod_two_eq_one_iff.symm)

/-- A channel `n` steps after counter 0, with 0 counted as period 1: the counter is `n` modulo the period, and the phase
has flipped once for each period completed (R65, R66). -/
theorem toneStep_iterate {t : ToneChannel} (h0 : t.counter = 0) (n : Nat) :
    (toneStep^[n] t).period = t.period ∧
    (toneStep^[n] t).counter.toNat = n % max 1 t.period.toNat ∧
    (toneStep^[n] t).sign = Bool.xor t.sign (decide (n / max 1 t.period.toNat % 2 = 1)) := by
  induction n with
  | zero => simp [h0]
  | succ n ih =>
    obtain ⟨hperiod, hcounter, hsign⟩ := ih
    rw [Function.iterate_succ_apply', toneStep_period, hperiod]
    by_cases hreached : max 1 t.period.toNat ≤ n % max 1 t.period.toNat + 1
    · obtain ⟨hdiv, hmod⟩ := div_mod_succ_of_reached (by omega) hreached
      rw [toneStep_of_reached (by rw [hperiod, hcounter]; omega), hdiv, hmod, hsign, not_xor_decide_odd]
      exact ⟨rfl, rfl, rfl⟩
    · obtain ⟨hdiv, hmod⟩ := div_mod_succ_of_below (Nat.lt_of_not_le hreached)
      obtain ⟨hnext, hrest⟩ := toneStep_of_below (t := toneStep^[n] t) (by rw [hperiod, hcounter]; omega)
      rw [hnext, hrest, hdiv, hmod, hcounter, hsign]
      exact ⟨rfl, rfl, rfl⟩

/-- Settles O34: the run is `n` cycles, and the channel is stepped once by each. -/
theorem toneIsASquareWave : Obligations.ToneIsASquareWave := by
  intro s n ch hs hroom h0
  rw [hs.execAll_replicate_cyc hroom]
  refine ⟨hs.iterate_cycle n, s.iterate_cycle_cursor n, ?_⟩
  rw [s.iterate_cycle_chip, Chip.iterate_advance_channel]
  exact toneStep_iterate h0 n

end Sys2Proof.Machine
end

section
/-! PROOFS. The noise generator (R70 to R74). A run of CYC that has room iterates `noiseStep`, which is a divider in
front of `lfsrNext`; so R74 is a statement about the iterates of `noiseStep`, by induction on their number. R73's period
is that of 1 under `lfsrNext`. The step is linear over XOR, so a power of it on 1 is squared as a polynomial is;
squaring finds that the power 2 ^ 17 is the first, so the period divides 2 ^ 17 - 1, which is prime. -/

namespace Sys2Proof.Machine

open Sys2Proof Sys2Proof.Rules

/-! ### The noise step (R70, R71) -/

theorem noiseStep_of_reached {g : NoiseGen} (h : 2 * g.period.toNat ≤ g.counter.toNat + 1) :
    noiseStep g = { g with counter := 0, shift := lfsrNext g.shift } := by
  rw [noiseStep, if_pos h]

/-- Below twice the period the counter is one more; it does not wrap, since twice the period fits in its width. -/
theorem noiseStep_of_below {g : NoiseGen} (h : g.counter.toNat + 1 < 2 * g.period.toNat) :
    (noiseStep g).counter.toNat = g.counter.toNat + 1 ∧ (noiseStep g).shift = g.shift := by
  have hperiod := g.period.isLt
  have hfits : g.counter.toNat + 1 < 2 ^ 6 := by omega
  rw [noiseStep, if_neg h.not_ge]
  exact ⟨by rw [BitVec.toNat_ofNat, Nat.mod_eq_of_lt hfits], rfl⟩

/-- Settles O30: a CYC with room runs a cycle, which steps the noise generator. -/
theorem cycStepsTheNoiseGenerator : Obligations.CycStepsTheNoiseGenerator := by
  intro s hi hroom
  refine ⟨s.cycle, exec_cyc_of_room hi hroom, noiseStep_period s.chip.noise, fun hreached => ?_, noiseStep_of_below⟩
  have hstep : s.cycle.chip.noise = { s.chip.noise with counter := 0, shift := lfsrNext s.chip.noise.shift } :=
    noiseStep_of_reached hreached
  rw [hstep]
  refine ⟨rfl, fun k hk => ?_, ?_⟩
  · rw [lfsrNext_getLsbD, if_pos hk]
  · rw [lfsrNext_getLsbD]; rfl

/-! ### The divider (R70, R74) -/

/-- A divider rolls over once every `2 * period` cycles, with a threshold of 0 counted as 1. -/
theorem rollovers_eq_div (period n : Nat) : rollovers period n = n / max 1 (2 * period) := by
  by_cases h : period = 0
  · simp [rollovers, h]
  · rw [rollovers, if_neg h, Nat.max_eq_right (by omega)]

theorem dividerCount_eq_mod (period n : Nat) : dividerCount period n = n % max 1 (2 * period) := by
  by_cases h : period = 0
  · simp [dividerCount, h, Nat.mod_one]
  · rw [dividerCount, if_neg h, Nat.max_eq_right (by omega)]

/-- A divider whose count a further cycle takes to the threshold rolls over and starts again from 0. -/
theorem divider_succ_of_reached {period n : Nat} (h : 2 * period ≤ dividerCount period n + 1) :
    rollovers period (n + 1) = rollovers period n + 1 ∧ dividerCount period (n + 1) = 0 := by
  simp only [rollovers_eq_div, dividerCount_eq_mod] at h ⊢
  exact div_mod_succ_of_reached (by omega) (by omega)

/-- A divider whose count a further cycle leaves below the threshold counts it and does not roll over. -/
theorem divider_succ_of_below {period n : Nat} (h : dividerCount period n + 1 < 2 * period) :
    rollovers period (n + 1) = rollovers period n ∧ dividerCount period (n + 1) = dividerCount period n + 1 := by
  simp only [rollovers_eq_div, dividerCount_eq_mod] at h ⊢
  exact div_mod_succ_of_below (by omega)

/-! ### A run of CYC (R74) -/

/-- The noise generator after `n` cycles' generator steps depends on that generator before them alone (R70, R84). -/
theorem Chip.iterate_advance_noise (c : Chip) (n : Nat) : (Chip.advance^[n] c).noise = noiseStep^[n] c.noise := by
  have hadvance : Function.Semiconj Chip.noise Chip.advance noiseStep := Chip.advance_noise
  exact hadvance.iterate_right n c

/-- The noise generator `n` steps after counter 0: the LFSR has advanced once for each time the divider rolled over. -/
theorem noiseStep_iterate {g : NoiseGen} (h0 : g.counter = 0) (n : Nat) :
    (noiseStep^[n] g).period = g.period ∧
    (noiseStep^[n] g).counter.toNat = dividerCount g.period.toNat n ∧
    (noiseStep^[n] g).shift = lfsrNext^[rollovers g.period.toNat n] g.shift := by
  induction n with
  | zero => simp [h0, rollovers_eq_div, dividerCount_eq_mod]
  | succ n ih =>
    obtain ⟨hperiod, hcounter, hshift⟩ := ih
    rw [Function.iterate_succ_apply', noiseStep_period]
    refine ⟨hperiod, ?_⟩
    by_cases hreached : 2 * g.period.toNat ≤ dividerCount g.period.toNat n + 1
    · obtain ⟨hroll, hcount⟩ := divider_succ_of_reached hreached
      rw [noiseStep_of_reached (by rwa [hperiod, hcounter]), hroll, hcount, hshift, Function.iterate_succ_apply']
      exact ⟨rfl, rfl⟩
    · have hbelow := Nat.lt_of_not_le hreached
      obtain ⟨hroll, hcount⟩ := divider_succ_of_below hbelow
      obtain ⟨hnext, hsame⟩ := noiseStep_of_below (g := noiseStep^[n] g) (by rwa [hperiod, hcounter])
      rw [hnext, hsame, hroll, hcount, hcounter, hshift]
      exact ⟨rfl, rfl⟩

/-- Settles O35: the run is `n` cycles, and the noise generator is stepped once by each. -/
theorem noiseAdvancesEveryTwoPeriods : Obligations.NoiseAdvancesEveryTwoPeriods := by
  intro s n hs hroom h0
  dsimp only
  rw [hs.execAll_replicate_cyc hroom, s.iterate_cycle_chip, Chip.iterate_advance_noise]
  exact noiseStep_iterate h0 n

/-! ### Powers of the LFSR's step -/

/-- The LFSR's step is linear over XOR. -/
theorem lfsrNext_xor (x y : BitVec 17) : lfsrNext (x ^^^ y) = lfsrNext x ^^^ lfsrNext y := by
  refine BitVec.eq_of_getLsbD_eq fun k _ => ?_
  simp only [BitVec.getLsbD_xor, lfsrNext_getLsbD]
  split
  · rfl
  · rw [← Bool.and_xor_distrib_left]
    simp only [Bool.xor_assoc, Bool.xor_left_comm]

theorem iterate_lfsrNext_xor (n : Nat) (x y : BitVec 17) :
    lfsrNext^[n] (x ^^^ y) = lfsrNext^[n] x ^^^ lfsrNext^[n] y := by
  have hlinear : Function.Semiconj₂ lfsrNext (· ^^^ ·) (· ^^^ ·) := lfsrNext_xor
  exact hlinear.iterate n x y

/-- 0 is a fixed point (R73). -/
theorem lfsrNext_zero : lfsrNext 0 = 0 := by decide

/-- A polynomial in the LFSR's step, as the list of its exponents, applied to `x`: the XOR of the iterates on `x`. -/
def xorIterates (exponents : List Nat) (x : BitVec 17) : BitVec 17 :=
  exponents.foldr (fun i y => lfsrNext^[i] x ^^^ y) 0

theorem xorIterates_cons (i : Nat) (is : List Nat) (x : BitVec 17) :
    xorIterates (i :: is) x = lfsrNext^[i] x ^^^ xorIterates is x := rfl

/-- Powers of the LFSR's step commute with polynomials in it. -/
theorem iterate_xorIterates (n : Nat) (exponents : List Nat) (x : BitVec 17) :
    lfsrNext^[n] (xorIterates exponents x) = xorIterates exponents (lfsrNext^[n] x) := by
  induction exponents with
  | nil => exact Function.iterate_fixed lfsrNext_zero n
  | cons i is ih =>
    have hcomm : lfsrNext^[n] (lfsrNext^[i] x) = lfsrNext^[i] (lfsrNext^[n] x) :=
      (Function.Commute.refl lfsrNext).iterate_iterate n i x
    rw [xorIterates_cons, xorIterates_cons, iterate_lfsrNext_xor, ih, hcomm]

/-- On the seed 1 the `n`th power of the LFSR's step is the polynomial with these exponents. -/
def PowerOnSeed (n : Nat) (exponents : List Nat) : Prop := lfsrNext^[n] 1 = xorIterates exponents 1

/-- Squaring a power squares its polynomial. -/
theorem PowerOnSeed.double {n : Nat} {es es' : List Nat} (h : PowerOnSeed n es)
    (hsq : xorIterates es (xorIterates es 1) = xorIterates es' 1) : PowerOnSeed (n + n) es' :=
  calc lfsrNext^[n + n] 1
    _ = lfsrNext^[n] (lfsrNext^[n] 1) := Function.iterate_add_apply lfsrNext n n 1
    _ = xorIterates es (xorIterates es 1) := by rw [h, iterate_xorIterates, h]
    _ = xorIterates es' 1 := hsq

/-- `x ^ (2 ^ 17) = x` in the field of `x ^ 17 = x ^ 3 + 1`, the tap polynomial of R71, by squaring from `x ^ 16`; each
row's polynomial is checked on the seed. -/
theorem powerOnSeed_two_pow_seventeen : PowerOnSeed (2 ^ 17) [1] := by
  have h4 : PowerOnSeed (2 ^ 4) [16] := by unfold PowerOnSeed; decide
  have h5 : PowerOnSeed (2 ^ 5) [15, 4, 1] := h4.double (by decide)
  have h6 : PowerOnSeed (2 ^ 6) [16, 13, 8, 2] := h5.double (by decide)
  have h7 : PowerOnSeed (2 ^ 7) [16, 15, 12, 9, 1] := h6.double (by decide)
  have h8 : PowerOnSeed (2 ^ 8) [16, 15, 13, 10, 7, 2] := h7.double (by decide)
  have h9 : PowerOnSeed (2 ^ 9) [16, 15, 14, 13, 12, 9, 6, 3, 1] := h8.double (by decide)
  have h10 : PowerOnSeed (2 ^ 10) [16, 15, 14, 13, 11, 10, 9, 7, 6, 2] := h9.double (by decide)
  have h11 : PowerOnSeed (2 ^ 11) [16, 15, 13, 11, 9, 8, 6, 5, 4, 3] := h10.double (by decide)
  have h12 : PowerOnSeed (2 ^ 12) [15, 13, 10, 9, 6, 5] := h11.double (by decide)
  have h13 : PowerOnSeed (2 ^ 13) [16, 13, 10, 9, 6, 4, 3, 1] := h12.double (by decide)
  have h14 : PowerOnSeed (2 ^ 14) [15, 9, 8, 3, 2] := h13.double (by decide)
  have h15 : PowerOnSeed (2 ^ 15) [13, 6, 1] := h14.double (by decide)
  have h16 : PowerOnSeed (2 ^ 16) [9, 2] := h15.double (by decide)
  exact h16.double (by decide)

/-! ### The full period (R73) -/

/-- Linearity, and no value but 0 that steps to 0. -/
theorem lfsrNext_injective : Function.Injective lfsrNext := by
  intro x y h
  by_contra hne
  exact lfsrNext_ne_zero (mt BitVec.xor_eq_zero_iff.mp hne) (by rw [lfsrNext_xor, h]; exact BitVec.xor_self)

theorem lfsrNext_isPeriodicPt_one : Function.IsPeriodicPt lfsrNext 131071 1 := by
  refine lfsrNext_injective ?_
  calc lfsrNext (lfsrNext^[131071] 1)
    _ = lfsrNext^[131071 + 1] 1 := (Function.iterate_succ_apply' lfsrNext 131071 1).symm
    _ = xorIterates [1] 1 := powerOnSeed_two_pow_seventeen
    _ = lfsrNext 1 := BitVec.xor_zero

/-- 131071 is prime, so it is the least period of a point that is periodic with it and not fixed. -/
theorem minimalPeriod_lfsrNext_one : Function.minimalPeriod lfsrNext 1 = 131071 :=
  have : Fact (Nat.Prime 131071) := ⟨by norm_num⟩
  Function.minimalPeriod_eq_prime lfsrNext_isPeriodicPt_one (by decide : lfsrNext 1 ≠ 1)

theorem iterate_lfsrNext_ne_zero {x : BitVec 17} (hx : x ≠ 0) (n : Nat) : lfsrNext^[n] x ≠ 0 :=
  Function.Iterate.rec (· ≠ 0) hx (fun _ => lfsrNext_ne_zero) n

/-- The first 131071 iterates on 1 are distinct and not 0, and there are no more values than that. -/
theorem exists_iterate_lfsrNext_one {x : BitVec 17} (hx : x ≠ 0) : ∃ n, n < 131071 ∧ lfsrNext^[n] 1 = x := by
  have hmaps : Set.MapsTo (lfsrNext^[·] 1) (Finset.range 131071) (Finset.univ.erase (0 : BitVec 17)) := fun n _ =>
    Finset.mem_erase.mpr ⟨iterate_lfsrNext_ne_zero (by decide) n, Finset.mem_univ _⟩
  have hinj : Set.InjOn (lfsrNext^[·] 1) (Finset.range 131071) := by
    rw [Finset.coe_range, ← minimalPeriod_lfsrNext_one]
    exact Function.iterate_injOn_Iio_minimalPeriod
  have hcard : (Finset.univ.erase (0 : BitVec 17)).card = 131071 := by
    rw [Finset.card_erase_of_mem (Finset.mem_univ _), Finset.card_univ, ← FinEnum.card_eq_fintypeCard,
      FinEnum.card_bitVec]
    norm_num
  have hsurj := Finset.surjOn_of_injOn_of_card_le _ hmaps hinj (by rw [hcard, Finset.card_range])
  obtain ⟨n, hn, rfl⟩ := hsurj (Finset.mem_erase.mpr ⟨hx, Finset.mem_univ x⟩)
  exact ⟨n, Finset.mem_range.mp hn, rfl⟩

/-! ### No command leaves the LFSR at 0 (R73, R95) -/

/-- Every change of the chip record leaves an LFSR that is not 0. -/
theorem ChipMove.shift_ne_zero {s : State} {i : Instr} {c : Chip} (h : ChipMove s i c)
    (hs : s.initialized = true → s.chip.noise.shift ≠ 0) : c.noise.shift ≠ 0 := by
  cases h with
  | sel d hi hd => exact hs hi
  | wr d hi => simpa [Chip.writeReg] using hs hi
  | wio d hi => exact hs hi
  | cyc hi => exact noiseStep_shift_ne_zero (hs hi)
  | init => exact Chip.reset_sound.2
  | load r hr => exact (chipOfRecord_sound hr).2

theorem exec_shift_ne_zero {i : Instr} {s t : State} (hs : s.initialized = true → s.chip.noise.shift ≠ 0)
    (h : exec i s = .next t) (ht : t.initialized = true) : t.chip.noise.shift ≠ 0 := by
  rcases exec_chip_cases h with ⟨hc, hi⟩ | hm
  · rw [hc]
    exact hs (hi ▸ ht)
  · exact hm.shift_ne_zero hs

/-- LOAD admits sound records alone, and one whose LFSR is 0 is not sound. -/
theorem exec_load_of_noiseShift_zero {r : Record} (h0 : r.noiseShift = 0) (s : State) :
    ∃ f, exec (.load r) s = .next (s.markFault f) ∧ f.code = 4 := by
  rcases execLoad_cases r s with ⟨f, -, hload⟩ | ⟨hadmitted, -⟩
  · exact ⟨.badSnapshot f, hload, rfl⟩
  · obtain ⟨-, hshift⟩ := chipOfRecord_sound hadmitted
    exact absurd (congrArg (BitVec.ofNat 17) h0) hshift

/-- Settles O36: the period is that of 1 under `lfsrNext`, and the invariant is kept by every change of the chip
record. -/
theorem lfsrHasFullPeriod : Obligations.LfsrHasFullPeriod :=
  ⟨fun _ => lfsrNext_ne_zero, lfsrNext_zero, fun _ _ _ => exec_shift_ne_zero,
    fun _ => exec_load_of_noiseShift_zero,
    lfsrNext_isPeriodicPt_one,
    fun _ hpos hlt hper =>
      hlt.not_ge (minimalPeriod_lfsrNext_one ▸ Function.IsPeriodicPt.minimalPeriod_le hpos hper),
    fun _ => exists_iterate_lfsrNext_one⟩

end Sys2Proof.Machine
end

section
/-! PROOFS. The envelope generator (R76 to R82). A cycle steps the envelope by `envStep`, which is a divider in front of
`envAdvance`; so R82's table is an invariant of the advances, kept by every envelope step of a run. What an advance does
is said over naturals, as R77 and R79 print it, and the table agrees with R77 and R79 row by row. -/

namespace Sys2Proof.Machine

open Sys2Proof Sys2Proof.Rules

/-! ### The shape's tests, over naturals (R77, R79) -/

theorem attackSet_iff (shape : Byte) : attackSet shape = true ↔ shape.toNat &&& 4 ≠ 0 := by
  revert shape; decide

theorem alternates_iff (shape : Byte) : alternates shape = true ↔ shape.toNat &&& 9 = 8 := by
  revert shape; decide

theorem mem_segmentOneHigh_iff (shape : Byte) : shape ∈ segmentOneHigh ↔ shape.toNat ∈ [8, 11, 13, 14] := by
  revert shape; decide

theorem mem_segmentOneUp_iff (shape : Byte) : shape ∈ segmentOneUp ↔ shape.toNat ∈ [10, 12] := by
  revert shape; decide

theorem mem_segmentOneDown_iff (shape : Byte) : shape ∈ segmentOneDown ↔ shape.toNat ∈ [8, 14] := by
  revert shape; decide

theorem segmentStart_toNat (shape : Byte) (segment : Bool) :
    (segmentStart shape segment).toNat = resetVolume shape.toNat segment := by
  simp only [segmentStart, resetVolume, attackSet_iff, mem_segmentOneHigh_iff, apply_ite BitVec.toNat]
  rfl

/-- The volume's sums in four bits are R79's sums modulo 16. -/
theorem advanceVolume_toNat (shape : Byte) (e : EnvGen) :
    (advanceVolume shape e).toNat = movedVolume shape.toNat e.segment e.step.toNat e.volume.toNat := by
  simp only [advanceVolume, moveVolume, movedVolume, attackSet_iff, mem_segmentOneUp_iff, mem_segmentOneDown_iff,
    BitVec.toNat_eq, apply_ite BitVec.toNat, BitVec.toNat_add]
  rfl

theorem nextSegment_eq (shape : Byte) (segment : Bool) :
    nextSegment shape segment = if shape.toNat &&& 9 = 8 then !segment else true :=
  if_congr (alternates_iff shape) rfl rfl

/-! ### The envelope's advance and step (R78, R79) -/

/-- An advance inside a segment. -/
theorem envAdvance_of_inside (shape : Byte) {e : EnvGen} (h : e.step.toNat < 15) :
    (envAdvance shape e).step.toNat = e.step.toNat + 1 ∧ (envAdvance shape e).segment = e.segment ∧
      (envAdvance shape e).volume.toNat = movedVolume shape.toNat e.segment e.step.toNat e.volume.toNat := by
  have hnot : ¬ e.step.toNat + 1 = 16 := by omega
  have hfits : e.step.toNat + 1 < 2 ^ 4 := by omega
  rw [envAdvance, if_neg hnot]
  exact ⟨by rw [BitVec.toNat_ofNat, Nat.mod_eq_of_lt hfits], rfl, advanceVolume_toNat shape e⟩

/-- The advance that ends a segment. -/
theorem envAdvance_of_last (shape : Byte) {e : EnvGen} (h : e.step.toNat = 15) :
    (envAdvance shape e).step = 0 ∧
      (envAdvance shape e).segment = (if shape.toNat &&& 9 = 8 then !e.segment else true) ∧
      (envAdvance shape e).volume.toNat = resetVolume shape.toNat (envAdvance shape e).segment := by
  have hlast : e.step.toNat + 1 = 16 := by omega
  rw [envAdvance, if_pos hlast]
  exact ⟨rfl, nextSegment_eq shape e.segment, segmentStart_toNat shape _⟩

/-- An advance neither reads nor writes the counter. -/
theorem envAdvance_withCounter (shape : Byte) (e : EnvGen) (c : BitVec 17) :
    envAdvance shape { e with counter := c } = { envAdvance shape e with counter := c } := by
  unfold envAdvance; split <;> rfl

theorem envStep_of_reached (shape : Byte) {e : EnvGen} (h : 2 * e.period.toNat ≤ e.counter.toNat + 1) :
    envStep shape e = { envAdvance shape e with counter := 0 } := by
  rw [envStep, if_pos h, envAdvance_withCounter]

/-- Below twice the period the counter is one more; it does not wrap, since twice the period fits in its width. -/
theorem envStep_of_below (shape : Byte) {e : EnvGen} (h : e.counter.toNat + 1 < 2 * e.period.toNat) :
    (envStep shape e).counter.toNat = e.counter.toNat + 1 ∧ (envStep shape e).segment = e.segment ∧
      (envStep shape e).step = e.step ∧ (envStep shape e).volume = e.volume := by
  have hperiod := e.period.isLt
  have hfits : e.counter.toNat + 1 < 2 ^ 17 := by omega
  rw [envStep, if_neg h.not_ge]
  exact ⟨by rw [BitVec.toNat_ofNat, Nat.mod_eq_of_lt hfits], rfl, rfl, rfl⟩

/-- Settles O31: a CYC with room runs a cycle, which steps the envelope under the shape in register 13. -/
theorem cycStepsTheEnvelope : Obligations.CycStepsTheEnvelope := by
  intro s hi hroom
  refine ⟨s.cycle, exec_cyc_of_room hi hroom, envStep_period s.chip.shape s.chip.env,
    envStep_of_below s.chip.shape, fun hreached => ?_⟩
  have hstep : s.cycle.chip.env = { envAdvance s.chip.shape s.chip.env with counter := 0 } :=
    envStep_of_reached s.chip.shape hreached
  rw [hstep]
  exact ⟨rfl, envAdvance_of_inside s.chip.shape, envAdvance_of_last s.chip.shape⟩

/-! ### R82's table under R77 and R79 -/

/-- The entry of R82's table for a step of a segment. -/
def rowVolume (shape : Nat) (segment : Bool) (step : Nat) : Nat :=
  (if segment = true then (shapeRow shape).2.2 else (shapeRow shape).2.1).getD step 0

theorem volumeAfter_eq_rowVolume (shape k : Nat) :
    volumeAfter shape k = rowVolume shape (segmentAfter shape k) (k % 16) := rfl

/-- The shapes that R82's table marks as toggling are those that R79's test picks. -/
theorem shapeRow_toggles_iff : ∀ shape < 16, ((shapeRow shape).1 = true ↔ shape &&& 9 = 8) := by decide

/-- Each segment of R82's table starts with R77's reset volume. -/
theorem rowVolume_zero : ∀ shape < 16, ∀ segment, rowVolume shape segment 0 = resetVolume shape segment := by decide

/-- Each entry of R82's table is moved to the next one of its segment as R79 says. -/
theorem rowVolume_succ : ∀ shape < 16, ∀ segment, ∀ step < 15,
    rowVolume shape segment (step + 1) = movedVolume shape segment step (rowVolume shape segment step) := by decide

theorem segmentAfter_succ_of_inside (shape : Nat) {k : Nat} (h : k % 16 < 15) :
    segmentAfter shape (k + 1) = segmentAfter shape k := by
  have hdiv : (k + 1) / 16 = k / 16 := by omega
  have hsettled : 16 ≤ k + 1 ↔ 16 ≤ k := by omega
  simp only [segmentAfter, hdiv, hsettled]

theorem segmentAfter_succ_of_last {shape k : Nat} (hshape : shape < 16) (h : k % 16 = 15) :
    segmentAfter shape (k + 1) = if shape &&& 9 = 8 then !segmentAfter shape k else true := by
  have hdiv : (k + 1) / 16 = k / 16 + 1 := by omega
  have hsettled : 16 ≤ k + 1 := by omega
  have hflip := not_xor_decide_odd false (k / 16)
  simp only [Bool.false_xor] at hflip
  by_cases htoggles : shape &&& 9 = 8
  · simp only [segmentAfter, shapeRow_toggles_iff shape hshape, if_pos htoggles, hdiv, hflip]
  · simp only [segmentAfter, shapeRow_toggles_iff shape hshape, if_neg htoggles, hsettled, decide_true]

/-- The envelope stands where R81 and R82 have it `k` advances after a shape write. -/
def EnvGen.FollowsTable (e : EnvGen) (shape k : Nat) : Prop :=
  e.step.toNat = k % 16 ∧ e.segment = segmentAfter shape k ∧ e.volume.toNat = volumeAfter shape k

/-- An advance takes the envelope to the next entry of R82's table. -/
theorem EnvGen.FollowsTable.advance {shape : Byte} (hshape : shape.toNat < 16) {e : EnvGen} {k : Nat}
    (h : e.FollowsTable shape.toNat k) : (envAdvance shape e).FollowsTable shape.toNat (k + 1) := by
  obtain ⟨hstep, hsegment, hvolume⟩ := h
  rw [volumeAfter_eq_rowVolume] at hvolume
  rw [FollowsTable, volumeAfter_eq_rowVolume]
  by_cases hinside : k % 16 < 15
  · obtain ⟨hstep', hsegment', hvolume'⟩ := envAdvance_of_inside shape (hstep.trans_lt hinside)
    have hmod : (k + 1) % 16 = k % 16 + 1 := by omega
    rw [hstep', hsegment', hvolume', hmod, segmentAfter_succ_of_inside _ hinside, hstep, hsegment, hvolume,
      rowVolume_succ _ hshape _ _ hinside]
    exact ⟨rfl, rfl, rfl⟩
  · have hlast : k % 16 = 15 := by omega
    obtain ⟨hstep', hsegment', hvolume'⟩ := envAdvance_of_last shape (hstep.trans hlast)
    have hmod : (k + 1) % 16 = 0 := by omega
    rw [hvolume', hstep', hsegment', hmod, segmentAfter_succ_of_last hshape hlast, hsegment,
      rowVolume_zero _ hshape]
    exact ⟨rfl, rfl, rfl⟩

/-- The envelope `n` steps after it stood at the start of R82's table with counter 0: it has advanced once for each time
the divider rolled over. -/
theorem EnvGen.FollowsTable.envStep_iterate {shape : Byte} (hshape : shape.toNat < 16) {e : EnvGen}
    (h0 : e.counter = 0) (hstart : e.FollowsTable shape.toNat 0) (n : Nat) :
    ((envStep shape)^[n] e).period = e.period ∧
    ((envStep shape)^[n] e).counter.toNat = dividerCount e.period.toNat n ∧
    ((envStep shape)^[n] e).FollowsTable shape.toNat (rollovers e.period.toNat n) := by
  induction n with
  | zero => simp [h0, hstart, rollovers_eq_div, dividerCount_eq_mod]
  | succ n ih =>
    obtain ⟨hperiod, hcounter, hfollows⟩ := ih
    rw [Function.iterate_succ_apply', envStep_period]
    refine ⟨hperiod, ?_⟩
    by_cases hreached : 2 * e.period.toNat ≤ dividerCount e.period.toNat n + 1
    · obtain ⟨hroll, hcount⟩ := divider_succ_of_reached hreached
      rw [envStep_of_reached shape (by rwa [hperiod, hcounter]), hroll, hcount]
      exact ⟨rfl, hfollows.advance hshape⟩
    · have hbelow := Nat.lt_of_not_le hreached
      obtain ⟨hroll, hcount⟩ := divider_succ_of_below hbelow
      obtain ⟨hnext, hsegment, hstep, hvolume⟩ :=
        envStep_of_below shape (e := (envStep shape)^[n] e) (by rwa [hperiod, hcounter])
      rw [hnext, hroll, hcount, hcounter, FollowsTable, hsegment, hstep, hvolume]
      exact ⟨rfl, hfollows⟩

/-! ### A run of CYC after a shape write (R60, R81, R82) -/

theorem Chip.iterate_advance_reg (c : Chip) (r : RegIndex) (n : Nat) : (Chip.advance^[n] c).reg r = c.reg r :=
  Function.Iterate.rec (fun (c' : Chip) => c'.reg r = c.reg r) rfl (fun c' h => (c'.advance_reg r).trans h) n

/-- The envelope after `n` cycles' generator steps depends on the envelope before them and the shape, which no cycle
changes (R20, R78, R84). -/
theorem Chip.iterate_advance_env (c : Chip) (n : Nat) :
    (Chip.advance^[n] c).env = (envStep c.shape)^[n] c.env := by
  induction n with
  | zero => rfl
  | succ n ih =>
    have hshape : (Chip.advance^[n] c).shape = c.shape := c.iterate_advance_reg shapeRegister n
    rw [Function.iterate_succ_apply', Function.iterate_succ_apply', Chip.advance_env, hshape, ih]

/-- A shape is the low four bits of the byte written (R12, R20). -/
theorem Chip.writeReg_shape_toNat (c : Chip) (d : Byte) : (c.writeReg 13 d).shape.toNat = d.toNat % 16 := by
  have hshape : (c.writeReg 13 d).shape = d &&& BitVec.ofNat 8 (2 ^ 4 - 1) := Chip.writeReg_reg c 13 13 d
  rw [hshape, BitVec.toNat_and]
  exact Nat.and_two_pow_sub_one_eq_mod d.toNat 4

/-- A shape write puts the envelope at the start of R82's table (R60). -/
theorem Chip.writeReg_env_followsTable (c : Chip) (d : Byte) :
    (c.writeReg 13 d).env.FollowsTable (c.writeReg 13 d).shape.toNat 0 := by
  have hshape : (c.writeReg 13 d).shape.toNat < 16 := by rw [c.writeReg_shape_toNat]; omega
  have hsegment : segmentAfter (c.writeReg 13 d).shape.toNat 0 = false := by simp [segmentAfter]
  rw [Chip.writeReg_env_of_shape c d rfl, EnvGen.FollowsTable, volumeAfter_eq_rowVolume, hsegment,
    rowVolume_zero _ hshape]
  exact ⟨rfl, rfl, segmentStart_toNat _ false⟩

/-- Settles O37: the write starts R82's table, and each of the `n` cycles of the run steps the envelope once. -/
theorem envelopeFollowsTheShapeTable : Obligations.EnvelopeFollowsTheShapeTable := by
  intro s d n hs hroom hlatch
  have hwritten : (s.setChip (s.chip.writeReg 13 d)).Running := hs.setChip _
  have hshape := s.chip.writeReg_shape_toNat d
  have henv := Chip.writeReg_env_of_shape s.chip d (r := 13) rfl
  have hfollows := (s.chip.writeReg_env_followsTable d).envStep_iterate (by omega) (by rw [henv]) n
  have hperiod : (s.chip.writeReg 13 d).env.period = s.chip.env.period := by rw [henv]
  rw [hperiod, hshape] at hfollows
  dsimp only
  rw [hs.execAll_cons _ (exec_wr_of_latch hs.1 hlatch d), hwritten.execAll_replicate_cyc hroom]
  refine ⟨hwritten.iterate_cycle n, State.iterate_cycle_cursor _ n, ?_⟩
  rw [State.iterate_cycle_chip, State.setChip_chip, Chip.iterate_advance_reg, Chip.iterate_advance_env]
  exact ⟨hshape, hfollows⟩

end Sys2Proof.Machine
end

section
/-! PROOFS. The mixer (R84 to R90). The model's contribution of a channel is the printed term of R85 to R87, and the
three of them fit in a SAMPLE, so a stored sample reads back as their sum; the rest of a cycle is what its generator
steps, the append and the output each leave unchanged. -/

namespace Sys2Proof.Machine

open Sys2Proof Sys2Proof.Rules

/-! ### The sample (R85 to R88) -/

theorem volumeOf_eq_dacTable (level : Level) : volumeOf level = dacTable.getD level.toNat 0 := by
  revert level; decide

theorem volumeOf_le (level : Level) : volumeOf level ≤ 4096 := by
  revert level; decide

theorem levelOf_toNat (t : ToneChannel) (volume : Level) :
    (levelOf t volume).toNat = if t.envMode = true then volume.toNat else t.amplitude.toNat :=
  apply_ite BitVec.toNat _ _ _

theorem gate_iff (t : ToneChannel) (noise : Bool) :
    gate t noise = true ↔ (t.toneDisabled = true ∨ t.sign = true) ∧ (t.noiseDisabled = true ∨ noise = true) := by
  simp only [gate, Bool.and_eq_true, Bool.or_eq_true]

theorem contribution_eq_channelTerm (c : Chip) (ch : Channel) :
    contribution (c.channel ch) (noiseBit c.noise) c.env.volume = channelTerm c ch := by
  rw [contribution, channelTerm, volumeOf_eq_dacTable, levelOf_toNat]
  exact if_congr (gate_iff _ _) rfl rfl

theorem contribution_le (t : ToneChannel) (noise : Bool) (volume : Level) : contribution t noise volume ≤ 4096 := by
  unfold contribution
  split
  · exact volumeOf_le _
  · exact Nat.zero_le _

theorem Chip.mix_eq_sum_channelTerm (c : Chip) :
    c.mix = channelTerm c .A + channelTerm c .B + channelTerm c .C := by
  simp only [← contribution_eq_channelTerm]; rfl

theorem Chip.mix_le (c : Chip) : c.mix ≤ 12288 :=
  Nat.add_le_add (Nat.add_le_add (contribution_le ..) (contribution_le ..)) (contribution_le ..)

/-- A SAMPLE holds every sum exactly (R88). -/
theorem Chip.sample_toInt (c : Chip) : c.sample.toInt = c.mix := by
  have hle := c.mix_le
  have hnat : c.sample.toNat = c.mix := Nat.mod_eq_of_lt (by omega)
  rw [BitVec.toInt_eq_toNat_of_lt (by omega), hnat]

/-- Settles O32: a CYC with room runs a cycle, whose sample is the mix of the chip record that the five generator
steps left. -/
theorem cycSampleIsTheGatedSum : Obligations.CycSampleIsTheGatedSum := by
  intro s hi hroom
  have hvalue := s.chip.advance.sample_toInt
  have hle := s.chip.advance.mix_le
  refine ⟨s.cycle, s.chip.advance.sample, exec_cyc_of_room hi hroom, rfl, ?_, by omega, by omega⟩
  rw [hvalue, Chip.mix_eq_sum_channelTerm]; rfl

/-! ### The append and the frame (R89, R90) -/

/-- A cycle writes the chip record, the sink and the outputs alone (R84, R89, R90). -/
theorem State.cycle_eq (s : State) :
    s.cycle = { s with
      chip := s.chip.advance
      written := Memory.write s.written s.cursor s.chip.advance.sample
      cursor := s.cursor + 1
      emitted := s.emitted ++ [s.chip.advance.sample]
      outputs := s.outputs ++ [.count 1] } := rfl

/-- Settles O33: a CYC with room runs a cycle. The write to the buffer reads back at the cursor alone, and each
generator step keeps its period and, for a tone channel, all but the counter and the phase. -/
theorem cycAppendsOneSample : Obligations.CycAppendsOneSample := by
  intro s hi hroom
  refine ⟨s.cycle, s.chip.advance.sample, exec_cyc_of_room hi hroom, ?_⟩
  rw [State.cycle_eq]
  refine ⟨?_, fun a ha => ?_, rfl, rfl, rfl, Chip.advance_latch _, Chip.advance_reg _, noiseStep_period _,
    envStep_period _ _, fun ch => ?_⟩
  · rw [Memory.read_write, if_pos rfl]
  · rw [Memory.read_write, if_neg ha]
  · rw [Chip.advance_channel]; exact toneStep_eq _

end Sys2Proof.Machine
end

section
/-! PROOFS. Host control (R91 to R96). A chip and a record are tied by `ChipHolds`: SAVE gives a record that the chip
holds, LOAD a chip that holds the record, and only one chip holds a record. So a LOAD of the record just saved puts the
same chip back, and what stays is one more value in the outputs, which no command reads. -/

namespace Sys2Proof.Machine

open Sys2Proof Sys2Proof.Rules

/-! ### INIT, SETBUF and RCUR (R91 to R93) -/

/-- Register 14 is all ones at reset, every other register 0 (R26). -/
theorem Chip.reset_reg (r : RegIndex) : Chip.reset.reg r = if r = 14 then 0xFF else 0 := by
  revert r; decide

/-- Settles O14: INIT starts the reset chip, whose channels are all alike. -/
theorem initGivesTheResetTable : Obligations.InitGivesTheResetTable := by
  intro s
  refine ⟨.reset, rfl, Chip.reset_reg, rfl, fun ch => ?_, rfl, rfl⟩
  cases ch <;> rfl

/-- Settles O39: SETBUF's buffer is the empty list, which holds no sample. -/
theorem setbufHandsOverANewBuffer : Obligations.SetbufHandsOverANewBuffer :=
  fun s n => ⟨s.newBuffer n, rfl, rfl, fun _ => rfl⟩

/-- Settles O40: RCUR answers the rewound state. -/
theorem rcurRewindsTheCursorAlone : Obligations.RcurRewindsTheCursorAlone := fun _ => rfl

/-! ### Which records LOAD admits (R95) -/

/-- The model's check of a field is the printed one (R10, R95). -/
theorem fieldAdmitted_iff_fieldFits (r : Record) (f : RecordField) : fieldAdmitted r f = true ↔ FieldFits r f := by
  rw [fieldAdmitted_iff]
  cases f <;> simp [FieldFits, fieldValue, RecordField.width, maskKept]

/-- Every field of the chip record stands in the model's table (R10). -/
theorem mem_recordFields (f : RecordField) : f ∈ recordFields := by
  cases f with
  | reg i => exact reg_mem_recordFields i
  | tonePeriod ch => cases ch <;> decide
  | toneCounter ch => cases ch <;> decide
  | sign ch => cases ch <;> decide
  | amplitude ch => cases ch <;> decide
  | toneDisabled ch => cases ch <;> decide
  | noiseDisabled ch => cases ch <;> decide
  | envMode ch => cases ch <;> decide
  | _ => decide

/-- A record is well-formed when each of its fields is (R95). -/
theorem recordFits_iff (r : Record) : RecordFits r ↔ ∀ f, FieldFits r f := by
  constructor
  · rintro ⟨hregs, hlatch, hch, hnp, hnc, hns, hns0, hep, hec, hseg, hstep, hvol⟩ f
    cases f with
    | reg i => simpa [FieldFits] using hregs i.toFin
    | noiseShift => exact ⟨hns, hns0⟩
    | _ => simp_all [FieldFits, ChannelFits]
  · intro h
    refine ⟨fun i => ?_, h .latch, fun ch => ⟨h (.tonePeriod ch), h (.toneCounter ch), h (.sign ch), h (.amplitude ch),
      h (.toneDisabled ch), h (.noiseDisabled ch), h (.envMode ch)⟩, h .noisePeriod, h .noiseCounter,
      (h .noiseShift).1, (h .noiseShift).2, h .envPeriod, h .envCounter, h .segment, h .step, h .volume⟩
    simpa [FieldFits] using h (.reg (BitVec.ofNat 4 i.val))

/-- LOAD finds no bad field exactly in the well-formed records (R95). -/
theorem firstBadField_none_iff_recordFits (r : Record) : firstBadField r = none ↔ RecordFits r := by
  rw [firstBadField_none, recordFits_iff]
  exact ⟨fun h f => (fieldAdmitted_iff_fieldFits r f).mp (h f (mem_recordFields f)),
    fun h f _ => (fieldAdmitted_iff_fieldFits r f).mpr (h f)⟩

/-! ### The chip that holds a record (R94, R95) -/

theorem bitOf_toNat {n : Nat} (h : n < 2) : (bitOf n).toNat = n := by
  obtain rfl | rfl : n = 0 ∨ n = 1 := by omega
  · rfl
  · rfl

theorem natOfBit_eq_toNat (b : Bool) : natOfBit b = b.toNat := by cases b <;> rfl

theorem channelOfRecord_holds {r : RecordChannel} (h : ChannelFits r) : ChannelHolds (channelOfRecord r) r := by
  obtain ⟨hperiod, hcounter, hsign, hamplitude, htone, hnoise, hmode⟩ := h
  exact ⟨Nat.mod_eq_of_lt hperiod, Nat.mod_eq_of_lt hcounter, bitOf_toNat hsign, Nat.mod_eq_of_lt hamplitude,
    bitOf_toNat htone, bitOf_toNat hnoise, bitOf_toNat hmode⟩

theorem chipOfRecord_channel (r : Record) (ch : Channel) :
    (chipOfRecord r).channel ch = channelOfRecord (r.channel ch) := by cases ch <;> rfl

/-- LOAD takes every field of a well-formed record as given (R95). -/
theorem chipOfRecord_holds {r : Record} (h : RecordFits r) : ChipHolds (chipOfRecord r) r := by
  obtain ⟨hregs, hlatch, hch, hnp, hnc, hns, -, hep, hec, hseg, hstep, hvol⟩ := h
  refine ⟨fun i => ?_, Nat.mod_eq_of_lt hlatch, fun ch => ?_, Nat.mod_eq_of_lt hnp, Nat.mod_eq_of_lt hnc,
    Nat.mod_eq_of_lt hns, Nat.mod_eq_of_lt hep, Nat.mod_eq_of_lt hec, bitOf_toNat hseg, Nat.mod_eq_of_lt hstep,
    Nat.mod_eq_of_lt hvol⟩
  · simp [chipOfRecord_reg, fieldValue, Nat.mod_eq_of_lt (hregs i).1]
  · rw [chipOfRecord_channel]
    exact channelOfRecord_holds (hch ch)

/-- Settles O42: LOAD finds no bad field exactly in the well-formed records, and the chip it then starts holds the
record. -/
theorem loadTakesAWellFormedRecordAsGiven : Obligations.LoadTakesAWellFormedRecordAsGiven := by
  intro r s
  rcases execLoad_cases r s with ⟨f, hbad, hexec⟩ | ⟨hgood, hexec⟩
  · have hunfit : ¬ RecordFits r := by simp [← firstBadField_none_iff_recordFits, hbad]
    exact ⟨fun hfits => absurd hfits hunfit, fun _ => ⟨.badSnapshot f, hexec, rfl⟩⟩
  · have hfits := (firstBadField_none_iff_recordFits r).mp hgood
    exact ⟨fun _ => ⟨chipOfRecord r, hexec, chipOfRecord_holds hfits⟩, fun hunfit => absurd hfits hunfit⟩

theorem recordOfChannel_holds (t : ToneChannel) : ChannelHolds t (recordOfChannel t) :=
  ⟨rfl, rfl, (natOfBit_eq_toNat _).symm, rfl, (natOfBit_eq_toNat _).symm, (natOfBit_eq_toNat _).symm,
    (natOfBit_eq_toNat _).symm⟩

theorem recordOfChip_channel (c : Chip) (ch : Channel) :
    (recordOfChip c).channel ch = recordOfChannel (c.channel ch) := by cases ch <;> rfl

/-- SAVE copies out every field of the chip record (R94). -/
theorem recordOfChip_holds (c : Chip) : ChipHolds c (recordOfChip c) := by
  refine ⟨fun i => ?_, rfl, fun ch => ?_, rfl, rfl, rfl, rfl, rfl, (natOfBit_eq_toNat _).symm, rfl, rfl⟩
  · simp [Chip.reg, recordOfChip]
  · rw [recordOfChip_channel]
    exact recordOfChannel_holds _

/-- Settles O41, by SAVE's answer in each of the two cases of its guard. -/
theorem saveCopiesEveryField : Obligations.SaveCopiesEveryField := fun s =>
  ⟨fun hi => ⟨recordOfChip s.chip, requireInit_of_init .save _ hi, recordOfChip_holds s.chip⟩,
    requireInit_marks_code_five .save _⟩

/-! ### A SAVE and a LOAD of its record (R96) -/

theorem channelFits_of_channelHolds {t : ToneChannel} {r : RecordChannel} (h : ChannelHolds t r) : ChannelFits r := by
  obtain ⟨hperiod, hcounter, hsign, hamplitude, htone, hnoise, hmode⟩ := h
  exact ⟨hperiod ▸ t.period.isLt, hcounter ▸ t.counter.isLt, hsign ▸ Bool.toNat_lt _, hamplitude ▸ t.amplitude.isLt,
    htone ▸ Bool.toNat_lt _, hnoise ▸ Bool.toNat_lt _, hmode ▸ Bool.toNat_lt _⟩

/-- A record that a sound chip holds is well-formed: R95's masks and LFSR are the invariant (R10, R73). -/
theorem recordFits_of_chipHolds {c : Chip} {r : Record} (h : ChipHolds c r) (hsound : c.Sound) : RecordFits r := by
  obtain ⟨hregs, hlatch, hch, hnp, hnc, hns, hep, hec, hseg, hstep, hvol⟩ := h
  obtain ⟨hmasks, hshift⟩ := hsound
  refine ⟨fun i => ?_, hlatch ▸ c.latch.isLt, fun ch => channelFits_of_channelHolds (hch ch), hnp ▸ c.noise.period.isLt,
    hnc ▸ c.noise.counter.isLt, hns ▸ c.noise.shift.isLt, fun h0 => hshift (BitVec.eq_of_toNat_eq (hns.trans h0)),
    hep ▸ c.env.period.isLt, hec ▸ c.env.counter.isLt, hseg ▸ Bool.toNat_lt _, hstep ▸ c.env.step.isLt,
    hvol ▸ c.env.volume.isLt⟩
  rw [← hregs i, BitVec.ofNat_toNat, BitVec.setWidth_eq]
  exact ⟨(c.reg _).isLt, hmasks _⟩

theorem bitOf_toNat_self (b : Bool) : bitOf b.toNat = b := by cases b <;> rfl

/-- The channel that LOAD takes from a record is the only channel that holds it. -/
theorem channelOfRecord_eq_of_channelHolds {t : ToneChannel} {r : RecordChannel} (h : ChannelHolds t r) :
    channelOfRecord r = t := by
  obtain ⟨hperiod, hcounter, hsign, hamplitude, htone, hnoise, hmode⟩ := h
  simp [channelOfRecord, ← hperiod, ← hcounter, ← hsign, ← hamplitude, ← htone, ← hnoise, ← hmode, bitOf_toNat_self]

/-- The chip that LOAD takes from a record is the only chip that holds it: the record has every field (R10). -/
theorem chipOfRecord_eq_of_chipHolds {c : Chip} {r : Record} (h : ChipHolds c r) : chipOfRecord r = c := by
  obtain ⟨hregs, hlatch, hch, hnp, hnc, hns, hep, hec, hseg, hstep, hvol⟩ := h
  have hA : channelOfRecord r.chA = c.chA := channelOfRecord_eq_of_channelHolds (hch .A)
  have hB : channelOfRecord r.chB = c.chB := channelOfRecord_eq_of_channelHolds (hch .B)
  have hC : channelOfRecord r.chC = c.chC := channelOfRecord_eq_of_channelHolds (hch .C)
  have hfile : Vector.ofFn (fun i : Fin 16 => BitVec.ofNat 8 r.regs[i.val]) = c.regs := by
    ext i hi
    simp [← hregs ⟨i, hi⟩, Chip.reg, Nat.mod_eq_of_lt hi]
  simp [chipOfRecord, hfile, hA, hB, hC, ← hlatch, ← hnp, ← hnc, ← hns, ← hep, ← hec, ← hseg, ← hstep, ← hvol,
    bitOf_toNat_self]

/-- The state with other values returned to the host so far (R23). -/
def State.setOutputs (s : State) (os : List Output) : State := { s with outputs := os }

@[simp] theorem State.setOutputs_initialized (s : State) (os : List Output) :
    (s.setOutputs os).initialized = s.initialized := rfl

@[simp] theorem State.setOutputs_sinkCap (s : State) (os : List Output) : (s.setOutputs os).sinkCap = s.sinkCap := rfl

@[simp] theorem State.setOutputs_cursor (s : State) (os : List Output) : (s.setOutputs os).cursor = s.cursor := rfl

/-- Two results are next states that agree in everything but the outputs: both add the same values, `r` to the outputs
of `s` and `r'` to `os`. -/
def AddSameOutputs (s : State) (os : List Output) (r r' : Result) : Prop :=
  ∃ t new, r = .next t ∧ t.outputs = s.outputs ++ new ∧ r' = .next (t.setOutputs (os ++ new))

/-- A raised fault leaves the outputs out of account. -/
theorem raise_addsSameOutputs (f : Fault) (s : State) (os : List Output) :
    AddSameOutputs s os (raise f s) (raise f (s.setOutputs os)) :=
  ⟨s.markFault f, [], rfl, (List.append_nil _).symm, by rw [List.append_nil]; rfl⟩

/-- The F_UNINIT guard leaves the outputs out of account when what it guards does. -/
theorem requireInit_addsSameOutputs {s : State} {os : List Output} {r r' : Result} (i : Instr)
    (h : AddSameOutputs s os r r') : AddSameOutputs s os (requireInit i s r) (requireInit i (s.setOutputs os) r') := by
  cases hi : s.initialized with
  | true => rwa [requireInit_of_init i r hi, requireInit_of_init i r' (by simpa using hi)]
  | false =>
    rw [requireInit_of_uninit i r hi, requireInit_of_uninit i r' (by simpa using hi)]
    exact raise_addsSameOutputs _ s os

/-- A next state that adds nothing to the outputs. -/
theorem addSameOutputs_of_keep {s t : State} (os : List Output) (h : t.outputs = s.outputs) :
    AddSameOutputs s os (.next t) (.next (t.setOutputs os)) :=
  ⟨t, [], rfl, by rw [h, List.append_nil], by rw [List.append_nil]⟩

/-- Every command answers a next state, and reads and removes nothing of the outputs. -/
theorem exec_addsSameOutputs (i : Instr) (s : State) (os : List Output) :
    AddSameOutputs s os (exec i s) (exec i (s.setOutputs os)) := by
  cases i with
  | sel d =>
    apply requireInit_addsSameOutputs
    cases indexOperand d with
    | none => exact raise_addsSameOutputs _ s os
    | some r => exact addSameOutputs_of_keep os rfl
  | rd => exact requireInit_addsSameOutputs _ ⟨_, _, rfl, rfl, rfl⟩
  | wr d => exact requireInit_addsSameOutputs _ (addSameOutputs_of_keep os rfl)
  | wio d => exact requireInit_addsSameOutputs _ (addSameOutputs_of_keep os rfl)
  | cyc =>
    apply requireInit_addsSameOutputs
    rw [State.setOutputs_sinkCap, State.setOutputs_cursor]
    cases s.sinkCap with
    | none => exact raise_addsSameOutputs _ s os
    | some cap =>
      by_cases hfull : s.cursor ≥ cap
      · simp only [if_pos hfull]
        exact raise_addsSameOutputs _ s os
      · simp only [if_neg hfull]
        exact ⟨_, _, rfl, rfl, rfl⟩
  | init => exact addSameOutputs_of_keep os rfl
  | rcur => exact addSameOutputs_of_keep os rfl
  | setbuf n => exact addSameOutputs_of_keep os rfl
  | save => exact requireInit_addsSameOutputs _ ⟨_, _, rfl, rfl, rfl⟩
  | load r =>
    change AddSameOutputs s os (execLoad r s) (execLoad r (s.setOutputs os))
    unfold execLoad
    cases firstBadField r with
    | none => exact addSameOutputs_of_keep os rfl
    | some f => exact raise_addsSameOutputs _ s os

/-- A program adds the same values to whatever the outputs hold, and leaves all else alike (R37). -/
theorem execAll_setOutputs (p : List Instr) (s : State) (os : List Output) :
    ∃ new, (execAll p s).outputs = s.outputs ++ new ∧
      execAll p (s.setOutputs os) = (execAll p s).setOutputs (os ++ new) := by
  induction p generalizing s os with
  | nil => exact ⟨[], (List.append_nil _).symm, by rw [List.append_nil]; rfl⟩
  | cons i p ih =>
    by_cases hm : (s.fault.isSome || s.refusal.isSome) = true
    · rw [execAll_of_marked hm, execAll_of_marked (s := s.setOutputs os) hm]
      exact ⟨[], (List.append_nil _).symm, by rw [List.append_nil]⟩
    · obtain ⟨t, first, ht, hfirst, ht'⟩ := exec_addsSameOutputs i s os
      obtain ⟨rest, hrest, hrun⟩ := ih t (os ++ first)
      rw [execAll_cons hm ht, execAll_cons (s := s.setOutputs os) hm ht']
      exact ⟨first ++ rest, by rw [hrest, hfirst, List.append_assoc], by rw [hrun, List.append_assoc]⟩

/-- LOAD of a record that the state's sound chip holds leaves the state as it is (R95). -/
theorem exec_load_of_holds {s : State} {r : Record} (hi : s.initialized = true) (hsound : s.chip.Sound)
    (h : ChipHolds s.chip r) : exec (.load r) s = .next s := by
  have hgood := (firstBadField_none_iff_recordFits r).mpr (recordFits_of_chipHolds h hsound)
  have hstart : s.startChip s.chip = s := by rw [State.startChip, ← hi]
  rcases execLoad_cases r s with ⟨f, hbad, -⟩ | ⟨-, hexec⟩
  · simp [hgood] at hbad
  · rw [exec, hexec, chipOfRecord_eq_of_chipHolds h, hstart]

/-- Settles O43: SAVE's record is held by the chip, so a LOAD of it changes nothing, and the record stays in the outputs
alone, which no program reads. -/
theorem saveThenLoadIsIndistinguishable : Obligations.SaveThenLoadIsIndistinguishable := by
  intro s hi hsound
  refine ⟨recordOfChip s.chip, requireInit_of_init .save _ hi, ?_, fun p => ?_⟩
  · exact exec_load_of_holds (s := s.output (.record (recordOfChip s.chip))) hi hsound (recordOfChip_holds s.chip)
  · exact execAll_setOutputs p s (s.outputs ++ [.record (recordOfChip s.chip)])

end Sys2Proof.Machine
end

section
/-! PROOFS. Exceptions (60_exceptions.md). A fault is a next state that differs in its mark alone, and a marked state has
no step, so a run that reaches one stays there. Which fault a command raises follows its checks in their order: the
F_UNINIT guard, then the command's own. -/

namespace Sys2Proof.Machine

open Sys2Proof Sys2Proof.Rules

/-! ### Waiting (R109) -/

/-- Settles O2: with an empty queue `runNext` answers the state itself. -/
theorem waitingChangesNothing : Obligations.WaitingChangesNothing := by
  intro s hf hr hp
  simp only [step, hf, hr, runNext, hp]

/-! ### Fault entry and the faulted state (R98, R99) -/

/-- A command leaves the fault mark alone, or sets it and changes nothing else. -/
theorem exec_fault_cases {i : Instr} {s t : State} (h : exec i s = .next t) :
    t.fault = s.fault ∨ ∃ f, t = s.markFault f := by
  rcases exec_next_cases h with hfault | ⟨d, -, -, rfl⟩ | ⟨-, -, rfl⟩ | ⟨d, -, -, rfl⟩ | ⟨d, -, -, rfl⟩ |
    ⟨cap, -, -, -, -, rfl⟩ | ⟨-, rfl⟩ | ⟨-, rfl⟩ | ⟨n, -, rfl⟩ | ⟨-, -, rfl⟩ | ⟨r, -, -, rfl⟩
  · exact .inr hfault
  all_goals exact .inl rfl

theorem step_of_fault {s : State} {f : Fault} (h : s.fault = some f) : step s = .fault f := by
  simp only [step, h]

/-- Settles O4: a changed mark is a raised fault, and a marked run stays where it is. -/
theorem faultEntryIsPreciseAndTerminal : Obligations.FaultEntryIsPreciseAndTerminal := by
  refine ⟨fun i s t h hne => (exec_fault_cases h).resolve_left hne, fun s f hf => ⟨step_of_fault hf, fun n => ?_, ?_⟩⟩
  · exact runSteps_of_marked (by simp [hf]) n
  · simp [State.endedWell, hf]

/-! ### The code a command reports (R100) -/

/-- The code of the fault mark, 0 for none (R97). -/
def State.reportedCode (s : State) : Nat := (s.fault.map Fault.code).getD 0

/-- A result is a next state whose mark reports the code `n`. -/
def Reports (r : Result) (n : Nat) : Prop := ∃ t, r = .next t ∧ t.reportedCode = n

theorem raise_reports (f : Fault) (s : State) : Reports (raise f s) f.code := ⟨s.markFault f, rfl, rfl⟩

theorem reports_zero_of_unmarked {t : State} (h : t.fault = none) : Reports (.next t) 0 :=
  ⟨t, rfl, by rw [State.reportedCode, h]; rfl⟩

/-- The F_UNINIT guard comes before whatever the guarded command reports. -/
theorem requireInit_reports (i : Instr) {s : State} {goOn : Result} {n : Nat} (h : Reports goOn n) :
    Reports (requireInit i s goOn) (if s.initialized = false then 5 else n) := by
  cases hi : s.initialized with
  | true => rwa [requireInit_of_init i goOn hi, if_neg nofun]
  | false => rw [requireInit_of_uninit i goOn hi, if_pos rfl]; exact raise_reports _ s

/-- A command but LOAD reports the first cause in R100's order. -/
theorem exec_reports_faultCode {i : Instr} {s : State} (hs : s.fault = none) (hload : ∀ r, i ≠ .load r) :
    Reports (exec i s) (faultCode i s) := by
  cases i with
  | sel d =>
    apply requireInit_reports
    by_cases hd : 15 < d.toNat
    · rw [indexOperand_of_gt hd, if_pos hd]
      exact raise_reports _ s
    · rw [indexOperand_of_le (by omega), if_neg hd]
      exact reports_zero_of_unmarked hs
  | rd => exact requireInit_reports _ (reports_zero_of_unmarked hs)
  | wr d => exact requireInit_reports _ (reports_zero_of_unmarked hs)
  | wio d => exact requireInit_reports _ (reports_zero_of_unmarked hs)
  | cyc =>
    apply requireInit_reports
    cases s.sinkCap with
    | none => exact raise_reports _ s
    | some cap =>
      by_cases hfull : cap ≤ s.cursor
      · simp only [ge_iff_le, if_pos hfull]
        exact raise_reports _ s
      · simp only [ge_iff_le, if_neg hfull]
        exact reports_zero_of_unmarked hs
  | init => exact reports_zero_of_unmarked hs
  | rcur => exact reports_zero_of_unmarked hs
  | setbuf n => exact reports_zero_of_unmarked hs
  | save => exact requireInit_reports _ (reports_zero_of_unmarked hs)
  | load r => exact absurd rfl (hload r)

/-- LOAD reports nothing, or F_BAD_SNAPSHOT. -/
theorem exec_load_reports (r : Record) {s : State} (hs : s.fault = none) :
    Reports (exec (.load r) s) 0 ∨ Reports (exec (.load r) s) 4 := by
  rcases execLoad_cases r s with ⟨f, -, hload⟩ | ⟨-, hload⟩
  · exact .inr ⟨_, hload, rfl⟩
  · exact .inl (by rw [exec, hload]; exact reports_zero_of_unmarked hs)

/-- Settles O5, by the code each command reports, LOAD apart. -/
theorem firstFaultCauseIsReported : Obligations.FirstFaultCauseIsReported := by
  intro i s hs
  by_cases hload : ∃ r, i = .load r
  · obtain ⟨r, rfl⟩ := hload
    rcases exec_load_reports r hs with ⟨t, ht, hcode⟩ | ⟨t, ht, hcode⟩
    · exact ⟨t, ht, fun hne => absurd rfl (hne r), fun _ _ => .inl hcode⟩
    · exact ⟨t, ht, fun hne => absurd rfl (hne r), fun _ _ => .inr hcode⟩
  · obtain ⟨t, ht, hcode⟩ := exec_reports_faultCode hs (not_exists.mp hload)
    exact ⟨t, ht, fun _ => hcode, fun r hr => absurd ⟨r, hr⟩ hload⟩

/-! ### The value a fault records (R97) -/

/-- CYC without a buffer (R84). -/
theorem exec_cyc_of_noSink {s : State} (hi : s.initialized = true) (hc : s.sinkCap = none) :
    exec .cyc s = .next (s.markFault .noBuffer) := by
  simp only [exec, execCyc, requireInit_of_init _ _ hi, hc, raise_eq]

/-- CYC with the cursor at or above the capacity (R84, R121). -/
theorem exec_cyc_of_full {s : State} {cap : Nat} (hi : s.initialized = true) (hc : s.sinkCap = some cap)
    (hfull : cap ≤ s.cursor) : exec .cyc s = .next (s.markFault (.sinkFull s.cursor)) := by
  simp only [exec, execCyc, requireInit_of_init _ _ hi, hc, ge_iff_le, if_pos hfull, raise_eq]

/-- The model's list of the record's fields is the printed table (R10). -/
theorem recordFields_eq_tableFields : recordFields = tableFields := rfl

/-- LOAD of a record that is not well-formed names the first field, in the order of the table, that fails R95's checks
(R97, log 8). -/
theorem exec_load_of_not_recordFits {r : Record} (h : ¬ RecordFits r) (s : State) :
    ∃ earlier f later, tableFields = earlier ++ f :: later ∧ exec (.load r) s = .next (s.markFault (.badSnapshot f)) ∧
      ¬ FieldFits r f ∧ ∀ g ∈ earlier, FieldFits r g := by
  rcases execLoad_cases r s with ⟨f, hbad, hload⟩ | ⟨hgood, -⟩
  · obtain ⟨hf, earlier, later, htable, hearlier⟩ := firstBadField_some hbad
    refine ⟨earlier, f, later, recordFields_eq_tableFields ▸ htable, hload, ?_,
      fun g hg => (fieldAdmitted_iff_fieldFits r g).mp (hearlier g hg)⟩
    rw [← fieldAdmitted_iff_fieldFits, hf]
    exact Bool.false_ne_true
  · exact absurd ((firstBadField_none_iff_recordFits r).mp hgood) h

/-- Settles O6, one fault of R97's table after another. -/
theorem faultRecordsItsValue : Obligations.FaultRecordsItsValue := by
  refine ⟨fun d s => (selSetsTheLatchAlone d s).2.1, fun _ => exec_cyc_of_noSink, fun _ _ => exec_cyc_of_full,
    fun i s hu hguarded => ?_, fun _ s h => exec_load_of_not_recordFits h s⟩
  rcases hguarded with rfl | rfl | rfl | ⟨d, rfl | rfl | rfl⟩
  all_goals exact requireInit_of_uninit _ _ hu

/-! ### Invalid words (R101) -/

/-- An unmarked state whose next word spells no command refuses it. -/
theorem step_of_decode_error {s : State} {c : HostCommand} {rest : List HostCommand} {why : DecodeError}
    (hf : s.fault = none) (hr : s.refusal = none) (hp : s.pending = c :: rest) (hd : decode c = .error why) :
    step s = .refused (.invalidWord c.word why) := by
  simp only [step, hf, hr, runNext, hp, runPresented, hd]

/-- A refused step marks the run, which then stays where it is. -/
theorem runSteps_succ_of_refused {s : State} {r : Refusal} (h : step s = .refused r) (n : Nat) :
    runSteps (n + 1) s = s.markRefused r := by
  rw [runSteps, advanceRun, h]
  exact runSteps_of_marked (by simp) n

/-- Settles O8: the word's decode error is the refusal, and a refused run keeps its mark. -/
theorem invalidWordIsRefusedAndMarksTheRun : Obligations.InvalidWordIsRefusedAndMarksTheRun := by
  intro s c rest hf hr hp hinvalid
  cases hd : decode c with
  | ok i => exact absurd hd (hinvalid i)
  | error why =>
    have hrefused := step_of_decode_error hf hr hp hd
    refine ⟨_, hrefused, fun n => ⟨runSteps_succ_of_refused hrefused n, ?_⟩⟩
    simp [runSteps_succ_of_refused hrefused, State.endedWell]

/-! ### What moves between cycles (R109, R122) -/

/-- A command emits one sample if it is a CYC that has room, and otherwise none (R89). -/
theorem exec_emitted_cases {i : Instr} {s t : State} (h : exec i s = .next t) :
    (∃ v, i = .cyc ∧ t.emitted = s.emitted ++ [v]) ∨ t.emitted = s.emitted := by
  rcases exec_next_cases h with ⟨f, rfl⟩ | ⟨d, rfl, -, rfl⟩ | ⟨rfl, -, rfl⟩ | ⟨d, rfl, -, rfl⟩ | ⟨d, rfl, -, rfl⟩ |
    ⟨cap, rfl, -, -, -, rfl⟩ | ⟨rfl, rfl⟩ | ⟨rfl, rfl⟩ | ⟨n, rfl, rfl⟩ | ⟨rfl, -, rfl⟩ | ⟨r, rfl, -, rfl⟩
  pick_goal 6
  · exact .inl ⟨s.chip.advance.sample, rfl, rfl⟩
  all_goals exact .inr rfl

theorem sameToneNoiseRunning_refl (c : Chip) : SameToneNoiseRunning c c := ⟨fun _ => ⟨rfl, rfl⟩, rfl, rfl⟩

/-- Of the ways to change the chip record, only CYC, INIT and LOAD move a tone or noise generator (R63, R109). -/
theorem ChipMove.sameToneNoiseRunning {s : State} {i : Instr} {c : Chip} (h : ChipMove s i c) (hcyc : i ≠ .cyc)
    (hinit : i ≠ .init) (hload : ∀ r, i ≠ .load r) : SameToneNoiseRunning s.chip c := by
  cases h with
  | sel d hi hd => exact ⟨fun ch => by simp, rfl, rfl⟩
  | wr d hi => exact Chip.writeReg_sameToneNoiseRunning ..
  | wio d hi => exact Chip.writeReg_sameToneNoiseRunning s.chip ioRegister d
  | cyc hi => exact absurd rfl hcyc
  | init => exact absurd rfl hinit
  | load r hr => exact absurd rfl (hload r)

/-- Settles O50, by what a command emits and the ways it can change the chip record. -/
theorem onlyCycAdvancesTheGenerators : Obligations.OnlyCycAdvancesTheGenerators :=
  fun _ s _ h => ⟨exec_emitted_cases h, fun hcyc hinit hload =>
    exec_keeps_chip (P := SameToneNoiseRunning s.chip) (sameToneNoiseRunning_refl _)
      (fun _ hm => hm.sameToneNoiseRunning hcyc hinit hload) h⟩

end Sys2Proof.Machine
end

section
/-! PROOFS. Reset and hazards (70_reset_and_hazards.md). Before the first INIT or LOAD every command that would read the
chip record stops at its F_UNINIT guard, and the other four do not look at the record. From the reset record, a run of
CYC is silent since no cycle changes a level, and its envelope advances on every cycle through a sequence of its own:
the shape is 0, but no shape write has put the volume at the start of R82's table. -/

namespace Sys2Proof.Machine

open Sys2Proof Sys2Proof.Rules

/-! ### Reset (R110) -/

/-- Settles O15: the start of a launch has every other field as `State.reset` does, and the word 0x6000 spells INIT. -/
theorem resetIsInitAtLaunch : Obligations.ResetIsInitAtLaunch := by
  intro c
  have hinit : exec .init (State.launch c) = .next State.reset := rfl
  have hword : decodeTableWord 16 0x6000 = some .init := by decide
  exact ⟨hinit, (fetchedWordRunsNext (State.launch c) 0x6000 .init rfl rfl hword).trans hinit⟩

/-! ### Before the first INIT or LOAD (R111) -/

/-- Two results, of the chip records `c` and `c'`, are next states that are equal and hold a chip record, or hold none
yet and differ in the unread `c` and `c'` alone. -/
def SameNextButUnread (c c' : Chip) (r r' : Result) : Prop :=
  ∃ t t', r = .next t ∧ r' = .next t' ∧
    ((t.initialized = true ∧ t' = t) ∨ (t.initialized = false ∧ t.chip = c ∧ t' = { t with chip := c' }))

/-- A raised fault leaves the chip record unread. -/
theorem raise_sameNextButUnread {s : State} (hu : s.initialized = false) (c c' : Chip) (f : Fault) :
    SameNextButUnread c c' (raise f (s.setChip c)) (raise f (s.setChip c')) :=
  ⟨_, _, rfl, rfl, .inr ⟨hu, rfl, rfl⟩⟩

/-- Whatever the F_UNINIT guard guards, it leaves the chip record unread. -/
theorem requireInit_sameNextButUnread {s : State} (hu : s.initialized = false) (c c' : Chip) (i : Instr)
    (goOn goOn' : Result) :
    SameNextButUnread c c' (requireInit i (s.setChip c) goOn) (requireInit i (s.setChip c') goOn') := by
  rw [requireInit_of_uninit (s := s.setChip c) i goOn hu, requireInit_of_uninit (s := s.setChip c') i goOn' hu]
  exact raise_sameNextButUnread hu c c' _

/-- No command reads the chip record before the first INIT or LOAD. -/
theorem exec_sameNextButUnread {s : State} (hu : s.initialized = false) (c c' : Chip) (i : Instr) :
    SameNextButUnread c c' (exec i (s.setChip c)) (exec i (s.setChip c')) := by
  cases i with
  | sel d => exact requireInit_sameNextButUnread hu c c' ..
  | rd => exact requireInit_sameNextButUnread hu c c' ..
  | wr d => exact requireInit_sameNextButUnread hu c c' ..
  | wio d => exact requireInit_sameNextButUnread hu c c' ..
  | cyc => exact requireInit_sameNextButUnread hu c c' ..
  | save => exact requireInit_sameNextButUnread hu c c' ..
  | init => exact ⟨_, _, rfl, rfl, .inl ⟨rfl, rfl⟩⟩
  | rcur => exact ⟨_, _, rfl, rfl, .inr ⟨hu, rfl, rfl⟩⟩
  | setbuf n => exact ⟨_, _, rfl, rfl, .inr ⟨hu, rfl, rfl⟩⟩
  | load r =>
    change SameNextButUnread c c' (execLoad r _) (execLoad r _)
    unfold execLoad
    cases firstBadField r with
    | none => exact ⟨_, _, rfl, rfl, .inl ⟨rfl, rfl⟩⟩
    | some f => exact raise_sameNextButUnread hu c c' _

/-- INIT, RCUR, SETBUF and a LOAD of a well-formed record raise no fault (R91, R92, R93, R95). -/
theorem exec_fault_of_unguarded {i : Instr} {s t : State}
    (hi : i = .init ∨ i = .rcur ∨ (∃ n, i = .setbuf n) ∨ (∃ r, i = .load r ∧ RecordFits r))
    (h : exec i s = .next t) : t.fault = s.fault := by
  rcases hi with rfl | rfl | ⟨n, rfl⟩ | ⟨r, rfl, hfits⟩
  · obtain rfl := Host.Outcome.next.inj h; rfl
  · obtain rfl := Host.Outcome.next.inj h; rfl
  · obtain rfl := Host.Outcome.next.inj h; rfl
  · obtain ⟨c, hload, -⟩ := (loadTakesAWellFormedRecordAsGiven r s).1 hfits
    obtain rfl := Host.Outcome.next.inj (hload.symm.trans h); rfl

/-- Settles O16: the two runs agree by what each command does before INIT or LOAD, and the guard's fault is the one
recorded by R97. -/
theorem uninitializedChipIsNeverRead : Obligations.UninitializedChipIsNeverRead := by
  intro i s c c' hu
  obtain ⟨-, -, -, huninit, -⟩ := faultRecordsItsValue
  obtain ⟨t, t', ht, ht', hsame⟩ := exec_sameNextButUnread hu c c' i
  refine ⟨t, t', ht, ht', hsame, fun hguarded => ⟨.uninit i, ?_, rfl⟩, fun hi => ?_⟩
  · obtain rfl := Host.Outcome.next.inj ((huninit i (s.setChip c) hu hguarded).symm.trans ht)
    rfl
  · exact exec_fault_of_unguarded (s := s.setChip c) hi ht

/-! ### A full buffer (R121) -/

/-- Settles O7: the fault's mark is all that changes. -/
theorem fullSinkFaultsAndKeepsSamples : Obligations.FullSinkFaultsAndKeepsSamples :=
  fun s _ hi hcap hfull => ⟨_, .sinkFull s.cursor, exec_cyc_of_full hi hcap hfull, rfl, rfl, rfl, rfl, rfl, rfl⟩

/-! ### The silence of a run from the reset record (R112) -/

/-- Every channel's level is a fixed amplitude of 0. -/
def Chip.Silent (c : Chip) : Prop := ∀ ch, (c.channel ch).amplitude = 0 ∧ (c.channel ch).envMode = false

theorem Chip.reset_silent : Chip.reset.Silent := by
  intro ch
  cases ch <;> exact ⟨rfl, rfl⟩

/-- No generator step changes a level. -/
theorem Chip.Silent.advance {c : Chip} (h : c.Silent) : c.advance.Silent := by
  intro ch
  rw [Chip.advance_channel, toneStep_amplitude, toneStep_envMode]
  exact h ch

/-- A channel with a fixed amplitude of 0 adds nothing, whether its gate is open or not (R85, R87). -/
theorem Chip.Silent.channelTerm_eq_zero {c : Chip} (h : c.Silent) (ch : Channel) : channelTerm c ch = 0 := by
  obtain ⟨hamplitude, hmode⟩ := h ch
  unfold channelTerm
  split
  · rw [hamplitude, hmode]; rfl
  · rfl

theorem Chip.Silent.sample_eq_zero {c : Chip} (h : c.Silent) : c.sample = 0 := by
  rw [Chip.sample, Chip.mix_eq_sum_channelTerm, h.channelTerm_eq_zero, h.channelTerm_eq_zero, h.channelTerm_eq_zero]
  rfl

/-- `n` cycles of a silent chip emit `n` zeros. -/
theorem Chip.Silent.iterate_cycle_emitted {s : State} (h : s.chip.Silent) (n : Nat) :
    (State.cycle^[n] s).emitted = s.emitted ++ List.replicate n 0 := by
  induction n generalizing s with
  | zero => exact (List.append_nil _).symm
  | succ n ih =>
    have hfirst : s.cycle.emitted = s.emitted ++ [0] := by rw [State.cycle_eq, h.advance.sample_eq_zero]
    rw [Function.iterate_succ_apply, ih (s := s.cycle) h.advance, hfirst, List.append_assoc]
    rfl

/-! ### The envelope of a run from the reset record (R80, R112) -/

/-- The volume `n` cycles after INIT: it wraps once from 0 to 15, falls to 2 and settles at 0. -/
def volumeFromReset (n : Nat) : Nat := if 2 ≤ n ∧ n ≤ 15 then 17 - n else 0

theorem volumeFromReset_of_settled {n : Nat} (h : 16 ≤ n) : volumeFromReset n = 0 := if_neg (by omega)

/-- In segment 0 of shape 0 the volume falls modulo 16, and stands still at step 0 (R79). -/
theorem volumeFromReset_succ : ∀ n < 15, volumeFromReset (n + 1) = movedVolume 0 false n (volumeFromReset n) := by
  decide

/-- In segment 1 of shape 0 the volume does not move (R79). -/
theorem movedVolume_shape_zero_segment_one (step volume : Nat) : movedVolume 0 true step volume = volume :=
  ite_self _

/-- The envelope stands where R112 has it `n` cycles after INIT. -/
def EnvGen.FollowsReset (e : EnvGen) (n : Nat) : Prop :=
  e.segment = decide (16 ≤ n) ∧ e.step.toNat = n % 16 ∧ e.volume.toNat = volumeFromReset n

/-- An advance under shape 0 takes the envelope to where R112 has it one cycle later. -/
theorem EnvGen.FollowsReset.advance {e : EnvGen} {n : Nat} (h : e.FollowsReset n) :
    (envAdvance 0 e).FollowsReset (n + 1) := by
  obtain ⟨hsegment, hstep, hvolume⟩ := h
  by_cases hlast : n % 16 = 15
  · obtain ⟨hstep', hsegment', hvolume'⟩ := envAdvance_of_last 0 (hstep.trans hlast)
    have hmod : (n + 1) % 16 = 0 := by omega
    have hsettled : 16 ≤ n + 1 := by omega
    rw [FollowsReset, hvolume', hstep', hsegment', hmod, volumeFromReset_of_settled hsettled, decide_eq_true hsettled]
    exact ⟨rfl, rfl, rfl⟩
  · obtain ⟨hstep', hsegment', hvolume'⟩ := envAdvance_of_inside 0 (e := e) (by omega)
    have hmod : (n + 1) % 16 = n % 16 + 1 := by omega
    rw [FollowsReset, hvolume', hstep', hsegment', hmod, hvolume, hsegment, hstep]
    by_cases hsettled : 16 ≤ n
    · have hsettled' : 16 ≤ n + 1 := by omega
      rw [decide_eq_true hsettled, decide_eq_true hsettled', volumeFromReset_of_settled hsettled,
        volumeFromReset_of_settled hsettled']
      exact ⟨rfl, rfl, movedVolume_shape_zero_segment_one _ 0⟩
    · have hsettled' : ¬ 16 ≤ n + 1 := by omega
      have hstep0 : n % 16 = n := Nat.mod_eq_of_lt (by omega)
      rw [decide_eq_false hsettled, decide_eq_false hsettled', volumeFromReset_succ n (by omega), hstep0]
      exact ⟨rfl, rfl, rfl⟩

/-- With period 0 the envelope advances on every cycle (R78). -/
theorem EnvGen.FollowsReset.envStep_iterate (n : Nat) :
    ((envStep 0)^[n] Chip.reset.env).period = 0 ∧ ((envStep 0)^[n] Chip.reset.env).FollowsReset n := by
  induction n with
  | zero => exact ⟨rfl, rfl, rfl, rfl⟩
  | succ n ih =>
    obtain ⟨hperiod, hfollows⟩ := ih
    rw [Function.iterate_succ_apply', envStep_period]
    refine ⟨hperiod, ?_⟩
    rw [envStep_of_reached 0 (by rw [hperiod]; exact Nat.zero_le _)]
    exact hfollows.advance

/-- Settles O38: INIT, then `n` cycles, of which each emits a 0 and advances the envelope. -/
theorem resetStateRunsSilentAndWrapsTheVolumeOnce : Obligations.ResetStateRunsSilentAndWrapsTheVolumeOnce := by
  intro s n hf hr hroom
  have hrunning : (s.startChip .reset).Running := ⟨rfl, hf, hr⟩
  have hshape : Chip.reset.shape = 0 := rfl
  dsimp only
  rw [execAll_init_cons hf hr, hrunning.execAll_replicate_cyc hroom]
  refine ⟨Chip.Silent.iterate_cycle_emitted (s := s.startChip .reset) Chip.reset_silent n, ?_⟩
  rw [State.iterate_cycle_chip, State.startChip_chip, Chip.iterate_advance_env, hshape]
  exact (EnvGen.FollowsReset.envStep_iterate n).2

end Sys2Proof.Machine
end
